-- ==== Sys2Proof/Word.lean ====
section
/-! DEFINITION. The words of the PMHF engine (00_scope.md rules R14, R15): 64-bit register values, the storage of one
cell of the cell memory, bytes and register offsets. -/

namespace Sys2Proof

/-- A host register value or a command word (10_state.md rule R43: every register is 64 bits wide). -/
abbrev Word := BitVec 64

/-- The storage of one cell. A cell is B bits wide, B at most 128 (00_scope.md rule R7); where B is smaller the upper
bits are 0, which `Memory.wf` says. -/
abbrev CellWord := BitVec 128

/-- One byte of HASH's input (00_scope.md rule R21). -/
abbrev Byte := BitVec 8

/-- A byte offset into the 4 KiB register space (20_memory.md rule R101). -/
abbrev Offset := BitVec 12

end Sys2Proof
end

