-- ==== Sys2Proof/Config.lean ====
section
/-! DEFINITION. What an implementation fixes: the parameters W, B, N_MAX and L_MAX (00_scope.md rules R6 to R9), and the
constants without a body that stand for what the spec leaves open: HASH (rule R10), the latency (70_reset_and_hazards.md
rule R520), the cell contents a reset leaves (rule R501), and PHASE at the launch of an illegal word (60_exceptions.md rule
R452). -/

namespace Sys2Proof

/-- KEY_W, the key width: 16, 32 or 64 (00_scope.md rule R6). -/
inductive KeyWidth where
  | w16
  | w32
  | w64
  deriving DecidableEq, Repr

/-- W as a number. -/
def KeyWidth.bits : KeyWidth → Nat
  | .w16 => 16
  | .w32 => 32
  | .w64 => 64

/-- CELL_B, the cell width: 32, 64 or 128 (00_scope.md rule R7). -/
inductive CellWidth where
  | b32
  | b64
  | b128
  deriving DecidableEq, Repr

/-- B as a number. -/
def CellWidth.bits : CellWidth → Nat
  | .b32 => 32
  | .b64 => 64
  | .b128 => 128

/-- The implementation parameters of one engine (00_scope.md rules R6 to R9). They never change while it runs. -/
structure Params where
  /-- KEY_W, rule R6. -/
  keyW : KeyWidth
  /-- CELL_B, rule R7. -/
  cellB : CellWidth
  /-- N_MAX, rule R8. -/
  nMax : Nat
  /-- L_MAX, rule R9. -/
  lMax : Nat
  deriving DecidableEq, Repr

/-- The reference instance: W = 64, B = 64, N_MAX = 4096, L_MAX = 64 (00_scope.md rules R6 to R9). -/
def Params.reference : Params := ⟨.w64, .b64, 4096, 64⟩

/-- The type of HASH (00_scope.md rule R10): a byte sequence and a 64-bit seed give a 64-bit value. -/
abbrev HashFn := List Byte → Word → Word

/-- HASH, the OPEN parameter of 00_scope.md rule R10 (log 6). No body: a claim holds for every hash. -/
opaque Config.hash : HashFn

/-- The free part of the latency T_CMD (70_reset_and_hazards.md rule R520, log 7): how many clock cycles pass, beyond
the one it takes itself, before the k-th phase step. Finite, and otherwise unconstrained. -/
opaque Config.stallCycles : Nat → Nat

/-- What cell c holds after the k-th cycle with rst = 1 (70_reset_and_hazards.md rule R501, log 3): any value. -/
opaque Config.resetCell : Nat → Nat → CellWord

/-- Which value but IDLE PHASE takes at the launch of an illegal command word, which no rule says (60_exceptions.md rule
R452, log 20): any of the five, by the number of latencies drawn before. -/
opaque Config.illegalPhase : Nat → Fin 5

end Sys2Proof
end

