-- ==== Sys2Proof/Syntax.lean ====
section
/-! DEFINITION. The command set, whole: one constructor per row of spec/opcode_table.json (30_encoding.md rule R153). A
command has no operand fields (rule R151): its operands are registers latched at launch. -/

namespace Sys2Proof

/-- The four commands of 30_encoding.md rule R153. -/
inductive Instr where
  /-- CONFIG, 40_config.md rule R200. -/
  | config
  /-- ADD, 42_point.md rule R301. -/
  | add
  /-- CONTAINS, 42_point.md rule R302. -/
  | contains
  /-- OVERLAPS, 43_range.md rule R350. -/
  | overlaps
  deriving DecidableEq, Repr

end Sys2Proof
end

