-- ==== Sys2Proof/WellFormed.lean ====
section
/-! DEFINITION. What is well formed: the implementation parameters (00_scope.md rules R6 to R9) and a command word
(30_encoding.md rules R150, R153, R155). A command has no operands in its word, so every `Instr` is well formed. -/

namespace Sys2Proof

/-- N_MAX ≥ 1 and 1 ≤ L_MAX ≤ W (00_scope.md rules R8, R9). W and B are right by their types (rules R6, R7). -/
def Params.wf (p : Params) : Bool :=
  decide (1 ≤ p.nMax) && decide (1 ≤ p.lMax) && decide (p.lMax ≤ p.keyW.bits)

/-- A command has no operand fields (30_encoding.md rule R151), so none can be ill formed. -/
def Instr.wf : Instr → Bool
  | .config => true
  | .add => true
  | .contains => true
  | .overlaps => true

/-- The legal command words (30_encoding.md rule R155): RSVD is 0 and OPCODE is 1 to 4. -/
def CommandWord.wf (v : Word) : Bool :=
  decide (v.toNat / 16 = 0) && decide (1 ≤ v.toNat % 16) && decide (v.toNat % 16 ≤ 4)

end Sys2Proof
end

