-- ==== Sys2Proof/Decode.lean ====
section
/-! DEFINITION. The command word (30_encoding.md rules R150, R153 to R155): its fields, the total decoder, which rejects by
name, and the encoder. -/

namespace Sys2Proof

/-- Why a command word is illegal (30_encoding.md rule R155). Both reasons end in ILLEGAL_CMD. -/
inductive IllegalWord where
  /-- A bit of RSVD [63:4] is 1. -/
  | reservedBits
  /-- RSVD is 0 and OPCODE [3:0] is 0 or 5 to 15. -/
  | noSuchOpcode
  deriving DecidableEq, Repr

/-- The five outcomes of DECODE (30_encoding.md rule R154): a command, or ILLEGAL. -/
inductive Decoded where
  | command (i : Instr)
  | illegal (why : IllegalWord)
  deriving DecidableEq, Repr

/-- OPCODE, bits [3:0] (30_encoding.md rule R150). -/
def opcodeField (v : Word) : BitVec 4 := v.extractLsb' 0 4

/-- RSVD, bits [63:4] (30_encoding.md rule R150). -/
def rsvdField (v : Word) : BitVec 60 := v.extractLsb' 4 60

/-- DECODE (30_encoding.md rules R153, R154): total, every 64-bit value is a command or illegal by name. -/
def decode (v : Word) : Decoded :=
  if rsvdField v ≠ 0 then .illegal .reservedBits
  else if opcodeField v = 1 then .command .config
  else if opcodeField v = 2 then .command .add
  else if opcodeField v = 3 then .command .contains
  else if opcodeField v = 4 then .command .overlaps
  else .illegal .noSuchOpcode

/-- The command a word selects, if it selects one. -/
def Decoded.instr? : Decoded → Option Instr
  | .command i => some i
  | .illegal _ => none

/-- The command word of a command (30_encoding.md rule R153): its OPCODE, with RSVD = 0. -/
def encode : Instr → Word
  | .config => 0x0000000000000001
  | .add => 0x0000000000000002
  | .contains => 0x0000000000000003
  | .overlaps => 0x0000000000000004

/-- What the decoder reads from an instruction whose `nbits` bits are `w`. A command is one 64-bit register write
(30_encoding.md rule R150): every bit above `nbits` is 0, and a value of more than 64 bits is no command word. -/
def decodeTableWord (nbits w : Nat) : Option Instr :=
  if w % 2 ^ nbits < 2 ^ 64 then (decode (BitVec.ofNat 64 (w % 2 ^ nbits))).instr? else none

end Sys2Proof
end

