-- ==== Sys2Proof/Machine/State.lean ====
section
/-! DEFINITION. The state of the engine as plain data (10_state.md), the requests of the host, the reasons a step can stop,
and the state after reset (70_reset_and_hazards.md rule R503). -/

namespace Sys2Proof.Machine

/-- STATUS (10_state.md rules R47 to R54), one field per field of the register; `statusWord` assembles the word, so that
the reserved bits read 0 by construction. -/
structure Status where
  /-- BUSY, bit 0 (rule R48). -/
  busy : Bool
  /-- DONE, bit 1, RW1C (rule R49). -/
  done : Bool
  /-- RESULT, bit 2 (rule R50). -/
  result : Bool
  /-- ERR, bit 3 (rule R51). -/
  err : Bool
  /-- CFG_VALID, bit 4 (rule R52). -/
  cfgValid : Bool
  /-- OVR, bit 5, RW1C (rule R53). -/
  ovr : Bool
  /-- ERRCODE, bits [11:8] (rule R51). -/
  errCode : BitVec 4
  /-- LASTOP, bits [15:12] (rule R54). -/
  lastOp : BitVec 4
  deriving DecidableEq, Repr

/-- The active configuration (10_state.md rule R70). -/
structure Active where
  /-- ACT_N, the number of cells in use. -/
  n : Nat
  /-- ACT_SEED. -/
  seed : Word
  /-- ACT_SEED2. -/
  seed2 : Word
  /-- ACT_L. -/
  l : BitVec 7
  /-- ACT_DELTA[j], j < L_MAX. -/
  delta : List (BitVec 7)
  /-- ACT_SHIFT[j], j ≤ L_MAX. -/
  shift : List (BitVec 7)
  deriving DecidableEq, Repr

/-- The command latch (10_state.md rule R75). -/
structure Latch where
  /-- CUR_OP, the accepted command word. -/
  curOp : Word
  /-- KEY_A, OPA at launch. -/
  keyA : Word
  /-- KEY_B, OPB at launch. -/
  keyB : Word
  /-- LAT_SIZE. -/
  size : Word
  /-- LAT_SEED. -/
  seed : Word
  /-- LAT_L. -/
  l : Word
  /-- LAT_DELTA[j], j < L_MAX. -/
  delta : List Word
  deriving DecidableEq, Repr

/-- PHASE (10_state.md rule R76). -/
inductive Phase where
  /-- No command. -/
  | idle
  /-- CFG_ZERO: CONFIG is clearing cells. -/
  | cfgZero
  /-- PT_LAYER: ADD or CONTAINS is visiting layer LIDX. -/
  | ptLayer
  /-- RQ_SEG (43_range.md rule R399). -/
  | rqSeg
  /-- RQ_ITEM (43_range.md rule R399). -/
  | rqItem
  /-- RQ_SWAP (43_range.md rule R399). -/
  | rqSwap
  deriving DecidableEq, Repr

/-- One entry of SEG or NSEG (10_state.md rule R77): V, SLO and SHI, the last two W-bit values. -/
structure Segment where
  /-- V, the entry is valid. -/
  valid : Bool
  /-- SLO, the first key. -/
  slo : Nat
  /-- SHI, the last key. -/
  shi : Nat
  deriving DecidableEq, Repr

/-- The sequencing state (10_state.md rules R76 to R78). -/
structure Sequencer where
  /-- PHASE. -/
  phase : Phase
  /-- LAYER. -/
  layer : BitVec 7
  /-- SEG[0]. -/
  seg0 : Segment
  /-- SEG[1]. -/
  seg1 : Segment
  /-- NSEG[0]. -/
  nseg0 : Segment
  /-- NSEG[1]. -/
  nseg1 : Segment
  /-- NCOUNT. -/
  ncount : BitVec 2
  /-- SEGIDX. -/
  segIdx : BitVec 1
  /-- CURSOR, a value of W + 1 bits. -/
  cursor : Nat
  /-- LIDX. -/
  lidx : BitVec 7
  /-- ZIDX. -/
  zidx : Nat
  /-- The model's own (log 10): the command is launched and has not made its first step, in which its errors are evaluated
  (60_exceptions.md rule R456, 70_reset_and_hazards.md rule R520). -/
  fresh : Bool
  deriving DecidableEq, Repr

/-- The cell memory (10_state.md rule R73): the cells whose value is not the one an unlisted cell reads as, by rising cell
index. The cell is the smallest unit of access (20_memory.md rules R110, R113, log 1). -/
abbrev Memory := List (Nat × CellWord)

/-- One request of the host register port (10_state.md rule R67). -/
inductive Access where
  /-- RD: read the register at an offset. -/
  | rd (off : Offset)
  /-- WR: write a 64-bit value to the register at an offset. -/
  | wr (off : Offset) (v : Word)
  deriving DecidableEq, Repr

/-- What the outside does next (30_encoding.md rules R156, R157, 70_reset_and_hazards.md rule R500; log 8). -/
inductive HostOp where
  /-- One clock cycle: the level of `rst`, and the host's request in it if it makes one. -/
  | cycle (rst : Bool) (acc : Option Access)
  /-- WAIT: repeat RD STATUS until BUSY = 0. -/
  | wait
  /-- WR CMD, v ; WAIT: the end of every pseudo-instruction of 30_encoding.md rule R157. -/
  | issue (v : Word)
  deriving DecidableEq, Repr

/-- The whole state of the machine. -/
structure State where
  /-- The implementation parameters; no step changes them (log 5). -/
  params : Params
  /-- STATUS. -/
  status : Status
  /-- INTEN.DONE_IE (10_state.md rule R56). -/
  doneIE : Bool
  /-- OPA (10_state.md rule R57). -/
  opa : Word
  /-- OPB (10_state.md rule R58). -/
  opb : Word
  /-- CFG_SIZE (10_state.md rule R59). -/
  cfgSize : Word
  /-- CFG_SEED (10_state.md rule R60). -/
  cfgSeed : Word
  /-- CFG_L (10_state.md rule R61). -/
  cfgL : Word
  /-- CFG_DELTA[j], j < L_MAX (10_state.md rule R62). -/
  cfgDelta : List Word
  /-- ERRDETAIL (10_state.md rule R63). -/
  errDetail : Word
  /-- The active configuration (10_state.md rule R70). -/
  act : Active
  /-- CELLS (10_state.md rule R73). -/
  cells : Memory
  /-- The command latch (10_state.md rule R75). -/
  latch : Latch
  /-- The sequencing state (10_state.md rules R76 to R78). -/
  seq : Sequencer
  /-- The model's own: what the outside does next, oldest first (log 8). -/
  inputs : List HostOp
  /-- The model's own: the 64 bits the port last answered to a read (log 13). -/
  rdata : Word
  /-- The model's own: clock cycles until the next phase step (log 7). -/
  stall : Nat
  /-- The model's own: how many latencies have been drawn (log 7). -/
  tick : Nat
  /-- The model's own: how many cycles with rst = 1 have been applied (log 3). -/
  resets : Nat
  deriving DecidableEq, Repr

/-- Why the machine stops with a fault. The engine itself never does (60_exceptions.md rule R456): each reason belongs to a
state that no run reaches, and each is safe (log 15). -/
inductive Fault where
  /-- Raised by ADD, CONTAINS and OVERLAPS and by their phase steps where the active configuration, against 10_state.md
  rule R72, or the layer counter would lead to a cell index that is not in [0, N): MemRead and MemWrite are defined only
  there (00_scope.md rule R19, 20_memory.md rule R104). Safe. -/
  | noSuchCell
  /-- Raised by RQ_ITEM where it would write NSEG[2] (43_range.md rule R401 says NCOUNT never exceeds 2). Safe. -/
  | noSuchSlot
  /-- Raised by RQ_ITEM where a check of layer 0 is covering (43_range.md rule R364 says none is), so that s_{i-1} does not
  exist. Safe. -/
  | noFinerLayer
  deriving DecidableEq, Repr

/-- Why an instruction has no meaning. -/
inductive Refusal where
  /-- The instruction has no meaning in the model yet; raised by `exec` only. Safe. No arm of this model answers it. -/
  | notModelled (mnemonic : String)
  deriving DecidableEq, Repr

/-- A segment register that holds nothing. -/
def Segment.empty : Segment := ⟨false, 0, 0⟩

/-- STATUS = 0 (70_reset_and_hazards.md rule R503). -/
def Status.reset : Status := ⟨false, false, false, false, false, false, 0, 0⟩

/-- The active configuration after reset: unspecified and unobservable (rule R503); the model holds zeros (log 4). -/
def Active.reset (p : Params) : Active :=
  ⟨0, 0, 0, 0, List.replicate p.lMax 0, List.replicate (p.lMax + 1) 0⟩

/-- The command latch after reset: unspecified and unobservable (rule R503); the model holds zeros (log 4). -/
def Latch.reset (p : Params) : Latch := ⟨0, 0, 0, 0, 0, 0, List.replicate p.lMax 0⟩

/-- PHASE = IDLE; the other sequencing registers are unspecified and unobservable (rule R503); zeros (log 4). -/
def Sequencer.reset : Sequencer :=
  ⟨.idle, 0, .empty, .empty, .empty, .empty, 0, 0, 0, 0, 0, false⟩

/-- The reset state of an engine with parameters `p` (70_reset_and_hazards.md rule R503). -/
def State.resetOf (p : Params) : State where
  params := p
  status := .reset
  doneIE := false
  opa := 0
  opb := 0
  cfgSize := 0
  cfgSeed := 0
  cfgL := 0
  cfgDelta := List.replicate p.lMax 0
  errDetail := 0
  act := .reset p
  cells := []
  latch := .reset p
  seq := .reset
  inputs := []
  rdata := 0
  stall := 0
  tick := 0
  resets := 0

/-- The machine right after reset: the reference instance (00_scope.md rules R6 to R9, log 5). -/
def State.reset : State := State.resetOf Params.reference

end Sys2Proof.Machine
end

