-- ==== Sys2Proof/Machine/Operands.lean ====
section
/-! DEFINITION. The notation of 00_scope.md (rules R14 to R16, R21), the constants of rule R11, and how a command's operands
are assembled from the latch (30_encoding.md rule R152, 40_config.md rule R201). -/

namespace Sys2Proof.Machine

/-- `wrap64` (00_scope.md rule R14). -/
def wrap64 (v : Nat) : Nat := v % 2 ^ 64

/-- `ones(n) = 2^n − 1` (00_scope.md rule R15). -/
def ones (n : Nat) : Nat := 2 ^ n - 1

/-- `alignw(x, w)`, x aligned down to a multiple of 2^w (00_scope.md rule R16). -/
def alignw (x w : Nat) : Nat := x - x % 2 ^ w

/-- The hash constant HA (00_scope.md rule R11). -/
def hashConstA : Nat := 845897321

/-- The hash constant HB (00_scope.md rule R11). -/
def hashConstB : Nat := 217728422

/-- `LE_W(v)`: W/8 bytes, byte j is `v[8j+7:8j]` (00_scope.md rule R21). -/
def leBytes (w v : Nat) : List Byte :=
  (List.range (w / 8)).map fun j => BitVec.ofNat 8 (v >>> (8 * j))

/-- The mask of bit position j of a cell, `1 << j` (20_memory.md rule R106). -/
def bitMask (j : Nat) : CellWord := BitVec.ofNat 128 (1 <<< j)

/-- The mask of bit positions j1 to j2 of a cell, `ones(j2 − j1 + 1) << j1` (20_memory.md rule R106). -/
def rangeMask (j1 j2 : Nat) : CellWord := BitVec.ofNat 128 (ones (j2 - j1 + 1) <<< j1)

/-- A key operand register holds a W-bit key: no bit at position W or above is 1 (30_encoding.md rule R152). -/
def keyFits (p : Params) (v : Word) : Bool := decide (v.toNat < 2 ^ p.keyW.bits)

/-- The W-bit key of an operand register, `v[W−1:0]` (30_encoding.md rule R152). -/
def keyOf (p : Params) (v : Word) : Nat := v.toNat % 2 ^ p.keyW.bits

/-- `N = ⌈size_bytes / (B/8)⌉`, exact (40_config.md rule R201). -/
def cellCount (p : Params) (size : Word) : Nat :=
  (size.toNat + p.cellB.bits / 8 - 1) / (p.cellB.bits / 8)

/-- The second seed `seed2 = wrap64(HA·seed + HB)` (41_hash_locate.md rule R252). -/
def secondSeed (seed : Word) : Word :=
  BitVec.ofNat 64 (wrap64 (hashConstA * seed.toNat + hashConstB))

end Sys2Proof.Machine
end

