-- ==== Sys2Proof/Machine/Flags.lean ====
section
/-! DEFINITION. The flag words of the engine: STATUS (10_state.md rule R47), ID (rule R44), INTEN (rule R56), the error
codes (60_exceptions.md rule R451), and the IRQ output (10_state.md rule R66). -/

namespace Sys2Proof.Machine

/-- The errors of 60_exceptions.md rule R451. -/
inductive ErrorCode where
  | invalidParams
  | notConfigured
  | illegalCmd
  | rangeOrder
  | keyWidth
  deriving DecidableEq, Repr

/-- The code reported in STATUS.ERRCODE (60_exceptions.md rule R451). -/
def errorNumber : ErrorCode → BitVec 4
  | .invalidParams => 1
  | .notConfigured => 2
  | .illegalCmd => 3
  | .rangeOrder => 4
  | .keyWidth => 5

/-- A one-bit field at position k of a 64-bit register. -/
def flagBit (b : Bool) (k : Nat) : Word := if b then (1 : Word) <<< k else 0

/-- The word a read of STATUS returns (10_state.md rule R47): the fields at their places, every reserved bit 0. -/
def statusWord (t : Status) : Word :=
  flagBit t.busy 0 ||| flagBit t.done 1 ||| flagBit t.result 2 ||| flagBit t.err 3 ||| flagBit t.cfgValid 4
    ||| flagBit t.ovr 5 ||| (t.errCode.setWidth 64 <<< 8) ||| (t.lastOp.setWidth 64 <<< 12)

/-- The word a read of ID returns (10_state.md rule R44). -/
def idWord (p : Params) : Word :=
  BitVec.ofNat 64 (0x0001 + p.keyW.bits <<< 16 + p.cellB.bits <<< 24 + p.lMax <<< 32)

/-- The word a read of NMAX returns (10_state.md rule R45). -/
def nMaxWord (p : Params) : Word := BitVec.ofNat 64 p.nMax

/-- The word a read of INTEN returns (10_state.md rule R56): DONE_IE in bit 0, the reserved bits 0. -/
def intenWord (doneIE : Bool) : Word := flagBit doneIE 0

/-- `rst` is 1 in the cycle that comes next (10_state.md rule R67). -/
def rstNow (s : State) : Bool :=
  match s.inputs with
  | .cycle true _ :: _ => true
  | _ => false

/-- `IRQ = STATUS.DONE & INTEN.DONE_IE` (10_state.md rule R66); 0 while rst = 1 (70_reset_and_hazards.md rule R500). -/
def irq (s : State) : Bool := !rstNow s && s.status.done && s.doneIE

end Sys2Proof.Machine
end

