-- ==== Sys2Proof/Machine/Ops.lean ====
section
/-! DEFINITION. The named operations of the machine: the cell memory (20_memory.md rules R104 to R112), launch, completion
and error completion (60_exceptions.md rules R452 to R455), reset (70_reset_and_hazards.md rules R500 to R503). The error
completion `raiseError` is this engine's one way to take an exception; it has no return from one (60_exceptions.md rule
R450). -/

namespace Sys2Proof.Machine

/-- What a cell that is not listed holds (log 2). -/
def cellDefault : CellWord := 0

/-- `MemRead(c, B)` (00_scope.md rule R19). -/
def Memory.read : Memory → Nat → CellWord
  | [], _ => cellDefault
  | (a, v) :: m, c => if a = c then v else Memory.read m c

/-- `MemWrite(c, B, v)` (00_scope.md rule R19), in the canonical form: rising indices, no entry equal to the default. -/
def Memory.write : Memory → Nat → CellWord → Memory
  | [], c, v => if v = cellDefault then [] else [(c, v)]
  | (a, w) :: m, c, v =>
    if c < a then (if v = cellDefault then (a, w) :: m else (c, v) :: (a, w) :: m)
    else if c = a then (if v = cellDefault then m else (c, v) :: m)
    else (a, w) :: Memory.write m c v

/-- Bit position j of cell c (20_memory.md rule R106). -/
def Memory.bit (m : Memory) (c j : Nat) : Bool := (Memory.read m c).getLsbD j

/-- The canonical form: strictly rising cell indices, all of them physical cells, each value B bits wide and not the one
an unlisted cell reads as. -/
def Memory.wf (p : Params) (m : Memory) : Bool :=
  decide (m.Pairwise fun a b => a.1 < b.1) &&
    m.all fun e => decide (e.1 < p.nMax) && decide (e.2 ≠ cellDefault) && decide (e.2.toNat < 2 ^ p.cellB.bits)

/-- The state with another cell memory. -/
def State.setCells (s : State) (m : Memory) : State := { s with cells := m }

/-- The state with other sequencing registers. -/
def State.setSeq (s : State) (q : Sequencer) : State := { s with seq := q }

/-- The state with other inputs still to come (log 8). -/
def State.setInputs (s : State) (l : List HostOp) : State := { s with inputs := l }

/-- The state with another answer on the read port (log 13). -/
def State.setRdata (s : State) (v : Word) : State := { s with rdata := v }

/-- A new latency is drawn (70_reset_and_hazards.md rule R520, log 7). -/
def State.drawLatency (s : State) : State :=
  { s with stall := Config.stallCycles s.tick, tick := s.tick + 1 }

/-- The first phase of a command (60_exceptions.md rule R452): CFG_ZERO, PT_LAYER (10_state.md rule R76), and for OVERLAPS
RQ_ITEM, where RQ_START leads (43_range.md rule R399, log 19). -/
def firstPhase : Instr → Phase
  | .config => .cfgZero
  | .add => .ptLayer
  | .contains => .ptLayer
  | .overlaps => .rqItem

/-- The five values of PHASE with BUSY = 1 (10_state.md rule R76). -/
def busyPhase (k : Fin 5) : Phase :=
  if k = 0 then .cfgZero else if k = 1 then .ptLayer else if k = 2 then .rqSeg else if k = 3 then .rqItem else .rqSwap

/-- PHASE at the launch of the word `v` (60_exceptions.md rule R452): the first phase of DECODE(v). An illegal word has no
phase in the spec and BUSY = 1 (10_state.md rule R76): any value but IDLE (log 20). -/
def launchPhase (v : Word) (s : State) : Phase :=
  match decode v with
  | .command i => firstPhase i
  | .illegal _ => busyPhase (Config.illegalPhase s.tick)

/-- LAUNCH(v) (60_exceptions.md rule R452): the latch is written, the STATUS fields of the last command and ERRDETAIL are
cleared, BUSY is set, and PHASE takes the first phase of DECODE(v). OVR, CFG_VALID, LASTOP, INTEN and the RW registers keep
their values. -/
def launch (v : Word) (s : State) : State :=
  { s with
    latch := ⟨v, s.opa, s.opb, s.cfgSize, s.cfgSeed, s.cfgL, s.cfgDelta⟩
    status := { s.status with busy := true, done := false, result := false, err := false, errCode := 0 }
    errDetail := 0
    seq := { s.seq with phase := launchPhase v s, fresh := true } }

/-- COMPLETE(r) (60_exceptions.md rule R454). -/
def complete (r : Bool) (s : State) : State :=
  { s with
    status := { s.status with
      result := r, err := false, errCode := 0, lastOp := s.latch.curOp.extractLsb' 0 4, busy := false, done := true }
    seq := { s.seq with phase := .idle, fresh := false } }

/-- RAISE(code, det) (60_exceptions.md rule R455): the error completion, the engine's one way to take an exception. -/
def raiseError (e : ErrorCode) (det : Word) (s : State) : State :=
  { s with
    status := { s.status with
      result := false, err := true, errCode := errorNumber e, lastOp := s.latch.curOp.extractLsb' 0 4,
      busy := false, done := true }
    errDetail := det
    seq := { s.seq with phase := .idle, fresh := false } }

/-- What an accepted illegal command word comes to (30_encoding.md rule R155). -/
def runIllegal (v : Word) (s : State) : State := raiseError .illegalCmd 0 (launch v s)

/-- The cell memory the k-th reset leaves: every cell any B-bit value (70_reset_and_hazards.md rule R501, log 3). -/
def cellsAfterReset (p : Params) (k : Nat) : Memory :=
  (List.range p.nMax).filterMap fun c =>
    let v := Config.resetCell k c &&& rangeMask 0 (p.cellB.bits - 1)
    if v = cellDefault then none else some (c, v)

/-- The reset state of 70_reset_and_hazards.md rule R503, applied by a cycle with rst = 1. The parameters are no state;
the cells become unspecified (rule R501); what the outside does next is not the engine's to reset. -/
def resetState (s : State) : State :=
  { State.resetOf s.params with
    cells := cellsAfterReset s.params s.resets
    inputs := s.inputs
    rdata := s.rdata
    tick := s.tick
    resets := s.resets + 1 }

/-- The next state of an outcome, if it has one. -/
def nextState? : Host.Outcome State Fault Refusal → Option State
  | .next s => some s
  | .fault _ => none
  | .refused _ => none

/-- An outcome with its next state changed. -/
def mapNext (f : State → State) : Host.Outcome State Fault Refusal → Host.Outcome State Fault Refusal
  | .next s => .next (f s)
  | .fault r => .fault r
  | .refused r => .refused r

end Sys2Proof.Machine
end

