-- ==== Sys2Proof/Machine/Construct.lean ====
section
/-! DEFINITION. CONFIG, the construction of a filter (40_config.md rules R200 to R215). -/

namespace Sys2Proof.Machine

/-- A PMHF word of δ bits is wider than x bits: `2^(δ − 1) > x` (40_config.md rule R207). Written without computing the
power, since δ is any 64-bit value; `wordOver_iff` says that it is that comparison. -/
def wordOver (d x : Nat) : Bool := decide (x = 0) || decide (x.log2 < d - 1)

/-- The δ entries VALIDATE examines, as numbers: the first min(L, L_MAX) (40_config.md rule R205). -/
def examined (p : Params) (l : Word) (delta : List Word) : List Nat :=
  (delta.take (min l.toNat p.lMax)).map BitVec.toNat

/-- The bits of ERRDETAIL that VALIDATE finds (40_config.md rule R202, 10_state.md rule R63); every check is made. -/
def validate (p : Params) (size l : Word) (delta : List Word) : Word :=
  let ds := examined p l delta
  let n := cellCount p size
  flagBit (decide (size.toNat = 0)) 0
    ||| flagBit (decide (l.toNat = 0)) 1
    ||| flagBit (decide (l.toNat > p.lMax)) 2
    ||| flagBit (ds.any fun d => decide (d = 0)) 3
    ||| flagBit (decide (ds.sum > p.keyW.bits)) 4
    ||| flagBit (decide (n > p.nMax)) 5
    ||| flagBit (decide (size.toNat ≠ 0) && decide (n ≤ p.nMax) &&
          ds.any fun d => decide (1 ≤ d) && wordOver d (n * p.cellB.bits)) 6

/-- VALIDATE on the latched operands. -/
def validateLatch (s : State) : Word := validate s.params s.latch.size s.latch.l s.latch.delta

/-- The number of cells of the latched size (40_config.md rule R201). -/
def latchedCells (s : State) : Nat := cellCount s.params s.latch.size

/-- `for z in [0, n): MemWrite(z, B, 0)` (40_config.md rules R200, R211). -/
def clearCells (n : Nat) (m : Memory) : Memory :=
  (List.range n).foldl (fun m z => Memory.write m z 0) m

/-- The shift table: s_j is the sum of the first j widths (40_config.md rule R208). -/
def shiftOf (delta : List Word) (j : Nat) : Nat := ((delta.take j).map BitVec.toNat).sum

/-- COMMIT (40_config.md rule R212): entries of ACT_DELTA from L on, and of ACT_SHIFT beyond L, are not written. -/
def commitActive (p : Params) (n : Nat) (seed l : Word) (delta : List Word) (a : Active) : Active where
  n := n
  seed := seed
  seed2 := secondSeed seed
  l := l.setWidth 7
  delta := (List.range p.lMax).map fun j =>
    if j < l.toNat then (delta.getD j 0).setWidth 7 else a.delta.getD j 0
  shift := (List.range (p.lMax + 1)).map fun j =>
    if j ≤ l.toNat then BitVec.ofNat 7 (shiftOf delta j) else a.shift.getD j 0

/-- COMMIT on the latched operands, with CFG_VALID set (40_config.md rule R212). -/
def commit (s : State) : State :=
  { s with
    act := commitActive s.params (latchedCells s) s.latch.seed s.latch.l s.latch.delta s.act
    status := { s.status with cfgValid := true } }

/-- CONFIG after its launch (40_config.md rule R200). -/
def runConfig (s : State) : State :=
  if validateLatch s ≠ 0 then raiseError .invalidParams (validateLatch s) s
  else complete false (commit (s.setCells (clearCells (latchedCells s) s.cells)))

/-- The meaning of CONFIG (40_config.md rule R200), from its launch to its completion. -/
def execConfig (s : State) : Host.Outcome State Fault Refusal :=
  .next (runConfig (launch (encode .config) s))

end Sys2Proof.Machine
end

