-- ==== Sys2Proof/Machine/HashLocate.lean ====
section
/-! DEFINITION. The datapath functions of 41_hash_locate.md (rules R250 to R269): prefix, double hash, word index, in-word
offset, cell and mask, and the probes. They take the hash as a parameter, so that they can also be run with the test hash of
95_test_vectors.md; the machine gives them `Config.hash`. -/

namespace Sys2Proof.Machine

/-- What the datapath reads: HASH, the implementation parameters and the active configuration (41_hash_locate.md,
opening). It is no part of State. -/
structure Geom where
  /-- HASH (00_scope.md rule R10). -/
  hash : HashFn
  /-- W, B, N_MAX, L_MAX. -/
  params : Params
  /-- The active configuration. -/
  act : Active

/-- The datapath of a state, under a hash. -/
def State.geom (h : HashFn) (s : State) : Geom := ⟨h, s.params, s.act⟩

/-- W (00_scope.md rule R6). -/
def Geom.keyBits (g : Geom) : Nat := g.params.keyW.bits

/-- B (00_scope.md rule R7). -/
def Geom.cellBits (g : Geom) : Nat := g.params.cellB.bits

/-- L, the number of layers (10_state.md rule R70). -/
def Geom.layers (g : Geom) : Nat := g.act.l.toNat

/-- δ_i (10_state.md rule R70). -/
def Geom.delta (g : Geom) (i : Nat) : Nat := (g.act.delta.getD i 0).toNat

/-- s_i (10_state.md rule R70, 00_scope.md rule R23). -/
def Geom.shift (g : Geom) (i : Nat) : Nat := (g.act.shift.getD i 0).toNat

/-- PREFIX(i, k) (41_hash_locate.md rule R251). -/
def Geom.keyPrefix (g : Geom) (i k : Nat) : Nat := k >>> (g.shift i + g.delta i - 1)

/-- a(i, k) (41_hash_locate.md rule R253). -/
def Geom.hashA (g : Geom) (i k : Nat) : Nat :=
  (g.hash (leBytes g.keyBits (g.keyPrefix i k)) g.act.seed).toNat

/-- b(i, k) (41_hash_locate.md rule R253). -/
def Geom.hashB (g : Geom) (i k : Nat) : Nat :=
  (g.hash (leBytes g.keyBits (g.keyPrefix i k)) g.act.seed2).toNat

/-- g(i, k) = wrap64(a + i·b + i²) (41_hash_locate.md rule R254). -/
def Geom.layerHash (g : Geom) (i k : Nat) : Nat := wrap64 (g.hashA i k + i * g.hashB i k + i * i)

/-- OFFSET(i, k) (41_hash_locate.md rule R256). -/
def Geom.offset (g : Geom) (i k : Nat) : Nat := (k >>> g.shift i) &&& ones (g.delta i - 1)

/-- WW_i = 2^(δ_i − 1) (41_hash_locate.md rule R257). -/
def Geom.wordWidth (g : Geom) (i : Nat) : Nat := 2 ^ (g.delta i - 1)

/-- M_i = (N·B) div WW_i (41_hash_locate.md rule R258). -/
def Geom.wordCount (g : Geom) (i : Nat) : Nat := (g.act.n * g.cellBits) / g.wordWidth i

/-- WORDIDX(i, k) = g(i, k) mod M_i (41_hash_locate.md rule R258). -/
def Geom.wordIndex (g : Geom) (i k : Nat) : Nat := g.layerHash i k % g.wordCount i

/-- The bit-array bit q = p·WW_i + o (20_memory.md rule R107). -/
def Geom.bitIndex (g : Geom) (i k : Nat) : Nat := g.wordIndex i k * g.wordWidth i + g.offset i k

/-- LOCATE(i, k): the cell and the mask (41_hash_locate.md rule R263). -/
def Geom.locate (g : Geom) (i k : Nat) : Nat × CellWord :=
  (g.bitIndex i k / g.cellBits, bitMask (g.bitIndex i k % g.cellBits))

/-- Cell and mask in the small-word regime, WW_i ≤ B (41_hash_locate.md rule R260). -/
def Geom.locateSmall (g : Geom) (i p o : Nat) : Nat × CellWord :=
  let wordsPerCell := g.cellBits / g.wordWidth i
  (p / wordsPerCell, bitMask ((p % wordsPerCell) * g.wordWidth i + o))

/-- Cell and mask in the large-word regime, WW_i > B (41_hash_locate.md rule R261). -/
def Geom.locateLarge (g : Geom) (i p o : Nat) : Nat × CellWord :=
  let cellsPerWord := g.wordWidth i / g.cellBits
  (p * cellsPerWord + o / g.cellBits, bitMask (o % g.cellBits))

/-- BITPROBE(i, k) (41_hash_locate.md rule R264). -/
def Geom.bitProbe (g : Geom) (m : Memory) (i k : Nat) : Bool :=
  decide (Memory.read m (g.locate i k).1 &&& (g.locate i k).2 ≠ 0)

/-- SETBIT(i, k) (41_hash_locate.md rule R265). -/
def Geom.setBit (g : Geom) (m : Memory) (i k : Nat) : Memory :=
  Memory.write m (g.locate i k).1 (Memory.read m (g.locate i k).1 ||| (g.locate i k).2)

/-- One cell of a range probe: is some bit of positions q1 to q2 of the bit-array that lies in cell c set
(41_hash_locate.md rule R266, the body of its loop). -/
def probeCell (b : Nat) (m : Memory) (q1 q2 c : Nat) : Bool :=
  let lob := if c = q1 / b then q1 % b else 0
  let hib := if c = q2 / b then q2 % b else b - 1
  decide (Memory.read m c &&& rangeMask lob hib ≠ 0)

/-- The loop of RANGEPROBE over the cells from q1 div B to q2 div B (41_hash_locate.md rule R266). -/
def probeBits (b : Nat) (m : Memory) (q1 q2 : Nat) : Bool :=
  (List.range' (q1 / b) (q2 / b + 1 - q1 / b)).any (probeCell b m q1 q2)

/-- RANGEPROBE(i, x, y) (41_hash_locate.md rule R266). -/
def Geom.rangeProbe (g : Geom) (m : Memory) (i x y : Nat) : Bool :=
  probeBits g.cellBits m (g.wordIndex i x * g.wordWidth i + g.offset i x)
    (g.wordIndex i x * g.wordWidth i + g.offset i y)

/-- Every cell that the datapath can name in this configuration exists: N is at most N_MAX and no layer has zero words
(41_hash_locate.md rule R258, 20_memory.md rule R104). -/
def Geom.addressable (g : Geom) : Bool :=
  decide (g.act.n ≤ g.params.nMax) &&
    (List.range g.layers).all fun i => decide (1 ≤ g.wordCount i)

end Sys2Proof.Machine
end

