-- ==== Sys2Proof/Machine/Point.lean ====
section
/-! DEFINITION. ADD and CONTAINS (42_point.md rules R300 to R309). -/

namespace Sys2Proof.Machine

/-- The preconditions of ADD and CONTAINS, in order (42_point.md rule R300, 60_exceptions.md rule R457). -/
def pointError (s : State) : Option ErrorCode :=
  if s.status.cfgValid = false then some .notConfigured
  else if keyFits s.params s.latch.keyA = false then some .keyWidth
  else none

/-- The key of ADD and CONTAINS, `KEY_A[W−1:0]` (42_point.md rules R301, R302). -/
def pointKey (s : State) : Nat := keyOf s.params s.latch.keyA

/-- The loop of ADD: SETBIT at every layer, ascending (42_point.md rule R301). -/
def Geom.addKey (g : Geom) (m : Memory) (k : Nat) : Memory :=
  (List.range g.layers).foldl (fun m i => g.setBit m i k) m

/-- The loop of CONTAINS: 1 when the bit of every layer is set (42_point.md rule R302). -/
def Geom.containsKey (g : Geom) (m : Memory) (k : Nat) : Bool :=
  (List.range g.layers).all fun i => g.bitProbe m i k

/-- ADD after its launch, under a hash (42_point.md rule R301). -/
def runAdd (h : HashFn) (s : State) : Host.Outcome State Fault Refusal :=
  match pointError s with
  | some e => .next (raiseError e 0 s)
  | none =>
    if (s.geom h).addressable then .next (complete false (s.setCells ((s.geom h).addKey s.cells (pointKey s))))
    else .fault .noSuchCell

/-- CONTAINS after its launch, under a hash (42_point.md rule R302). -/
def runContains (h : HashFn) (s : State) : Host.Outcome State Fault Refusal :=
  match pointError s with
  | some e => .next (raiseError e 0 s)
  | none =>
    if (s.geom h).addressable then .next (complete ((s.geom h).containsKey s.cells (pointKey s)) s)
    else .fault .noSuchCell

/-- The meaning of ADD (42_point.md rule R301), from its launch to its completion. -/
def execAdd (s : State) : Host.Outcome State Fault Refusal :=
  runAdd Config.hash (launch (encode .add) s)

/-- The meaning of CONTAINS (42_point.md rule R302), from its launch to its completion. -/
def execContains (s : State) : Host.Outcome State Fault Refusal :=
  runContains Config.hash (launch (encode .contains) s)

end Sys2Proof.Machine
end

