-- ==== Sys2Proof/Machine/Range.lean ====
section
/-! DEFINITION. OVERLAPS (43_range.md): its preconditions (rules R350, R351), the dyadic decomposition (rules R352 to R360)
and the normative result function OVERLAPS_REF (rules R361 to R366). -/

namespace Sys2Proof.Machine

/-- The tag of a check (43_range.md rule R353). -/
inductive Tag where
  | notYetSplit
  | left
  | right
  deriving DecidableEq, Repr

/-- A check: a dyadic interval of keys with its tag (43_range.md rule R353). -/
structure Check where
  /-- The first key. -/
  low : Nat
  /-- The last key. -/
  high : Nat
  /-- The tag. -/
  loc : Tag
  deriving DecidableEq, Repr

/-- The midpoint, leaning right (43_range.md rule R354). -/
def Check.mid (c : Check) : Nat := c.high - (c.high - c.low) / 2

/-- SPLIT1 (43_range.md rule R355): one split step of a check; the set it returns as a list. -/
def split1 (lo hi : Nat) (c : Check) : List Check :=
  match c.loc with
  | .notYetSplit =>
    if c.mid ≤ lo then [⟨c.mid, c.high, .notYetSplit⟩]
    else if c.mid - 1 ≥ hi then [⟨c.low, c.mid - 1, .notYetSplit⟩]
    else [⟨c.low, c.mid - 1, .left⟩, ⟨c.mid, c.high, .right⟩]
  | .left =>
    if c.mid > lo then [⟨c.low, c.mid - 1, .left⟩, ⟨c.mid, c.high, .left⟩]
    else [⟨c.mid, c.high, .left⟩]
  | .right =>
    if c.mid ≤ hi then [⟨c.low, c.mid - 1, .right⟩, ⟨c.mid, c.high, .right⟩]
    else [⟨c.low, c.mid - 1, .right⟩]

/-- `advance(C, n)` (43_range.md rule R356): every check split n times. -/
def advance (lo hi : Nat) : Nat → List Check → List Check
  | 0, cs => cs
  | n + 1, cs => advance lo hi n (cs.flatMap (split1 lo hi))

/-- A check is covering: it overhangs the query (43_range.md rule R361). -/
def Check.covering (lo hi : Nat) (c : Check) : Bool := decide (c.low < lo) || decide (c.high > hi)

/-- The initial frontier (43_range.md rule R360, 90_conflicts.md C3): the whole domain split W − s_{L−1} times. -/
def Geom.initialFrontier (g : Geom) (lo hi : Nat) : List Check :=
  advance lo hi (g.keyBits - g.shift (g.layers - 1)) [⟨0, 2 ^ g.keyBits - 1, .notYetSplit⟩]

/-- What the check of layer i hands to the layer below (43_range.md rule R362): a covering check whose bit is set is split
into its bit spans of layer i − 1; any other is dropped. -/
def Geom.children (g : Geom) (m : Memory) (lo hi i : Nat) (c : Check) : List Check :=
  if c.covering lo hi && g.bitProbe m i c.low then advance lo hi (g.delta (i - 1)) [c] else []

/-- A contained check of layer i whose range probe hits (43_range.md rule R363). -/
def Geom.hits (g : Geom) (m : Memory) (lo hi i : Nat) (c : Check) : Bool :=
  !c.covering lo hi && g.rangeProbe m i c.low c.high

/-- The main loop (43_range.md rules R365, R366): the argument n stands for the layers n − 1 down to 0. -/
def Geom.refLoop (g : Geom) (m : Memory) (lo hi : Nat) : Nat → List Check → Bool
  | 0, _ => false
  | i + 1, checks =>
    checks.any (g.hits m lo hi i) || Geom.refLoop g m lo hi i (checks.flatMap (g.children m lo hi i))

/-- OVERLAPS_REF(lo, hi), the normative result (43_range.md rule R366). -/
def Geom.overlapsRef (g : Geom) (m : Memory) (lo hi : Nat) : Bool :=
  g.refLoop m lo hi g.layers (g.initialFrontier lo hi)

/-- `lo`, the first key of the query, `KEY_A[W−1:0]` (43_range.md rule R350). -/
def queryLo (s : State) : Nat := keyOf s.params s.latch.keyA

/-- `hi`, the last key of the query, `KEY_B[W−1:0]` (43_range.md rule R350). -/
def queryHi (s : State) : Nat := keyOf s.params s.latch.keyB

/-- The preconditions of OVERLAPS, in order (43_range.md rules R350, R351, 60_exceptions.md rule R457). -/
def rangeError (s : State) : Option ErrorCode :=
  if s.status.cfgValid = false then some .notConfigured
  else if (keyFits s.params s.latch.keyA && keyFits s.params s.latch.keyB) = false then some .keyWidth
  else if queryLo s > queryHi s then some .rangeOrder
  else none

/-- OVERLAPS after its launch, under a hash (43_range.md rule R350). -/
def runOverlaps (h : HashFn) (s : State) : Host.Outcome State Fault Refusal :=
  match rangeError s with
  | some e => .next (raiseError e 0 s)
  | none =>
    if (s.geom h).addressable then
      .next (complete ((s.geom h).overlapsRef s.cells (queryLo s) (queryHi s)) s)
    else .fault .noSuchCell

/-- The meaning of OVERLAPS (43_range.md rule R350), from its launch to its completion. -/
def execOverlaps (s : State) : Host.Outcome State Fault Refusal :=
  runOverlaps Config.hash (launch (encode .overlaps) s)

end Sys2Proof.Machine
end

