-- ==== Sys2Proof/Machine/Dispatch.lean ====
section
/-! DEFINITION. One arm per command. -/

namespace Sys2Proof.Machine

def exec (i : Instr) (s : State) : Host.Outcome State Fault Refusal :=
  match i with
  | .config => Sys2Proof.Machine.execConfig s
  | .add => Sys2Proof.Machine.execAdd s
  | .contains => Sys2Proof.Machine.execContains s
  | .overlaps => Sys2Proof.Machine.execOverlaps s

end Sys2Proof.Machine
end

