-- ==== Sys2Proof/Machine/Sequencer.lean ====
section
/-! DEFINITION. The engine one phase step at a time (10_state.md rules R76 to R78): the first step after launch
(60_exceptions.md rule R456, 70_reset_and_hazards.md rule R520, log 10), CFG_ZERO, PT_LAYER (42_point.md rule R303) and the
range sequencer RQ_START, RQ_ITEM, RQ_SEG, RQ_SWAP (43_range.md rule R399). -/

namespace Sys2Proof.Machine

/-- The cells and layers a phase step at layer i uses exist (20_memory.md rule R104, log 15). -/
def Geom.layerReady (g : Geom) (i : Nat) : Bool := g.addressable && decide (i < g.layers)

/-- The first step of CONFIG: validation; on success the clearing pass begins at cell 0 (40_config.md rules R200, R213). -/
def startConfig (s : State) : State :=
  if validateLatch s ≠ 0 then raiseError .invalidParams (validateLatch s) s
  else s.setSeq { s.seq with phase := .cfgZero, zidx := 0, fresh := false }

/-- The first step of ADD and CONTAINS: the preconditions; then layer 0 is next (42_point.md rules R300, R303). -/
def startPoint (s : State) : State :=
  match pointError s with
  | some e => raiseError e 0 s
  | none => s.setSeq { s.seq with phase := .ptLayer, lidx := 0, fresh := false }

/-- A segment hull at shift w: `(alignw(a, w), alignw(b, w) + 2^w − 1)` (43_range.md rules R393, R394). -/
def hullSegment (a b w : Nat) : Segment := ⟨true, alignw a w, alignw b w + 2 ^ w - 1⟩

/-- RQ_START (43_range.md rule R399). -/
def rqStart (g : Geom) (lo hi : Nat) (q : Sequencer) : Sequencer :=
  let seg := hullSegment lo hi (g.shift (g.layers - 1))
  { q with
    layer := BitVec.ofNat 7 (g.layers - 1)
    seg0 := seg
    seg1 := { q.seg1 with valid := false }
    nseg0 := { q.nseg0 with valid := false }
    nseg1 := { q.nseg1 with valid := false }
    ncount := 0
    segIdx := 0
    cursor := seg.slo
    phase := .rqItem
    fresh := false }

/-- The first step of OVERLAPS: the preconditions, then RQ_START (43_range.md rules R350, R399). -/
def startRange (h : HashFn) (s : State) : State :=
  match rangeError s with
  | some e => raiseError e 0 s
  | none => s.setSeq (rqStart (s.geom h) (queryLo s) (queryHi s) s.seq)

/-- The first step after launch (60_exceptions.md rule R456): DECODE and the errors, in the order of rule R457. -/
def startStep (h : HashFn) (s : State) : State :=
  match decode s.latch.curOp with
  | .illegal _ => raiseError .illegalCmd 0 s
  | .command .config => startConfig s
  | .command .add => startPoint s
  | .command .contains => startPoint s
  | .command .overlaps => startRange h s

/-- A CFG_ZERO step: cell ZIDX is cleared; the last one commits and completes (40_config.md rules R211, R212). -/
def cfgZeroStep (s : State) : State :=
  let t := s.setCells (if s.seq.zidx < latchedCells s then Memory.write s.cells s.seq.zidx 0 else s.cells)
  if s.seq.zidx + 1 < latchedCells s then t.setSeq { s.seq with zidx := s.seq.zidx + 1 }
  else complete false (commit t)

/-- Layer LIDX is done and the command goes on: the next layer, or completion with `r` after the last one. -/
def nextLayer (g : Geom) (r : Bool) (s : State) : State :=
  if s.seq.lidx.toNat + 1 = g.layers then complete r s
  else s.setSeq { s.seq with lidx := s.seq.lidx + 1 }

/-- A PT_LAYER step of ADD: SETBIT at layer LIDX (42_point.md rules R301, R303). -/
def addLayer (g : Geom) (s : State) : State :=
  nextLayer g false (s.setCells (g.setBit s.cells s.seq.lidx.toNat (pointKey s)))

/-- A PT_LAYER step of CONTAINS: BITPROBE at layer LIDX; a clear bit completes (42_point.md rules R302, R303). -/
def containsLayer (g : Geom) (s : State) : State :=
  if g.bitProbe s.cells s.seq.lidx.toNat (pointKey s) then nextLayer g true s else complete false s

/-- A PT_LAYER step (10_state.md rule R76: only ADD and CONTAINS have this phase). -/
def ptLayerStep (h : HashFn) (s : State) : Host.Outcome State Fault Refusal :=
  if (s.geom h).layerReady s.seq.lidx.toNat then
    if s.latch.curOp = encode .add then .next (addLayer (s.geom h) s) else .next (containsLayer (s.geom h) s)
  else .fault .noSuchCell

/-- SEG[SEGIDX] (43_range.md rule R399). -/
def currentSegment (q : Sequencer) : Segment := if q.segIdx = 0 then q.seg0 else q.seg1

/-- The end of the word-run that starts at x (43_range.md rule R396). -/
def runEnd (g : Geom) (hi i x segHi : Nat) : Nat :=
  min (min segHi (x ||| (2 ^ (g.shift i + g.delta i - 1) - 1))) (alignw (hi + 1) (g.shift i) - 1)

/-- `NSEG[NCOUNT] <- seg; NCOUNT <- NCOUNT + 1` (43_range.md rule R399); none where NCOUNT is not 0 or 1 (rule R401). -/
def appendSegment (seg : Segment) (q : Sequencer) : Option Sequencer :=
  if q.ncount = 0 then some { q with nseg0 := seg, ncount := 1 }
  else if q.ncount = 1 then some { q with nseg1 := seg, ncount := 2 }
  else none

/-- RQ_ITEM at a covering check [x, xe] of layer i (43_range.md rules R362, R394, R399). -/
def coveringItem (g : Geom) (lo hi i x xe : Nat) (s : State) : Host.Outcome State Fault Refusal :=
  if g.bitProbe s.cells i x then
    if i = 0 then .fault .noFinerLayer
    else match appendSegment (hullSegment (max lo x) (min hi xe) (g.shift (i - 1))) s.seq with
      | some q => .next (s.setSeq { q with cursor := xe + 1 })
      | none => .fault .noSuchSlot
  else .next (s.setSeq { s.seq with cursor := xe + 1 })

/-- RQ_ITEM at a contained check: the word-run from x to e (43_range.md rules R395, R398, R399). -/
def containedItem (g : Geom) (i x e : Nat) (s : State) : State :=
  if g.rangeProbe s.cells i x e then complete true s
  else s.setSeq { s.seq with cursor := e + 1 }

/-- RQ_ITEM (43_range.md rule R399): one item. -/
def rqItemStep (g : Geom) (lo hi : Nat) (s : State) : Host.Outcome State Fault Refusal :=
  let i := s.seq.layer.toNat
  let x := s.seq.cursor
  let xe := x + 2 ^ g.shift i - 1
  let segHi := (currentSegment s.seq).shi
  if g.layerReady i then
    if x > segHi then .next (s.setSeq { s.seq with phase := .rqSeg })
    else if x < lo ∨ xe > hi then coveringItem g lo hi i x xe s
    else .next (containedItem g i x (runEnd g hi i x segHi) s)
  else .fault .noSuchCell

/-- RQ_SEG (43_range.md rule R399): the carry out of the one-bit SEGIDX is the test SEGIDX = 2. -/
def rqSegStep (s : State) : State :=
  if s.seq.segIdx = 1 ∨ s.seq.seg1.valid = false then
    s.setSeq { s.seq with segIdx := s.seq.segIdx + 1, phase := .rqSwap }
  else s.setSeq { s.seq with segIdx := s.seq.segIdx + 1, cursor := s.seq.seg1.slo, phase := .rqItem }

/-- RQ_SWAP (43_range.md rule R399). -/
def rqSwapStep (s : State) : State :=
  if s.seq.ncount = 0 ∨ s.seq.layer = 0 then complete false s
  else s.setSeq { s.seq with
    seg0 := s.seq.nseg0
    seg1 := s.seq.nseg1
    nseg0 := { s.seq.nseg0 with valid := false }
    nseg1 := { s.seq.nseg1 with valid := false }
    ncount := 0
    layer := s.seq.layer - 1
    segIdx := 0
    cursor := s.seq.nseg0.slo
    phase := .rqItem }

/-- A step of a command that has made its first step, by its PHASE (10_state.md rule R76); nothing happens while no
command runs. -/
def phaseStep (h : HashFn) (s : State) : Host.Outcome State Fault Refusal :=
  match s.seq.phase with
  | .idle => .next s
  | .cfgZero => .next (cfgZeroStep s)
  | .ptLayer => ptLayerStep h s
  | .rqSeg => .next (rqSegStep s)
  | .rqItem => rqItemStep (s.geom h) (queryLo s) (queryHi s) s
  | .rqSwap => .next (rqSwapStep s)

/-- One phase step of the engine under a hash: the first step after launch (60_exceptions.md rule R456, log 10), then the
steps of the PHASE. -/
def engineStepWith (h : HashFn) (s : State) : Host.Outcome State Fault Refusal :=
  if s.seq.fresh then .next (startStep h s) else phaseStep h s

/-- One phase step of the machine's own engine. -/
def engineStep (s : State) : Host.Outcome State Fault Refusal := engineStepWith Config.hash s

/-- n phase steps, without the host and without stall cycles: what R520 calls the steps of a command. -/
def engineSteps (h : HashFn) : Nat → State → Host.Outcome State Fault Refusal
  | 0, s => .next s
  | n + 1, s =>
    match engineStepWith h s with
    | .next t => engineSteps h n t
    | .fault r => .fault r
    | .refused r => .refused r

end Sys2Proof.Machine
end

