-- ==== Sys2Proof/Machine/Port.lean ====
section
/-! DEFINITION. The host register port (10_state.md section 2, 20_memory.md rules R101 to R103) and one clock cycle of the
machine (60_exceptions.md rule R453, 70_reset_and_hazards.md rules R500, R520). -/

namespace Sys2Proof.Machine

/-- The registers of 10_state.md rule R43. -/
inductive Reg where
  | id
  | nMax
  | cmd
  | status
  | inten
  | opa
  | opb
  | cfgSize
  | cfgSeed
  | cfgL
  | errDetail
  | actN
  | cfgDelta (j : Nat)
  deriving DecidableEq, Repr

/-- The register at a byte offset, if the offset is mapped (10_state.md rule R43, 20_memory.md rules R101, R115). -/
def regAt (p : Params) (off : Offset) : Option Reg :=
  let a := off.toNat
  if a % 8 ≠ 0 then none
  else if a = 0x000 then some .id
  else if a = 0x008 then some .nMax
  else if a = 0x010 then some .cmd
  else if a = 0x018 then some .status
  else if a = 0x020 then some .inten
  else if a = 0x028 then some .opa
  else if a = 0x030 then some .opb
  else if a = 0x038 then some .cfgSize
  else if a = 0x040 then some .cfgSeed
  else if a = 0x048 then some .cfgL
  else if a = 0x050 then some .errDetail
  else if a = 0x058 then some .actN
  else if 0x100 ≤ a ∧ (a - 0x100) / 8 < p.lMax then some (.cfgDelta ((a - 0x100) / 8))
  else none

/-- The offset of CMD (10_state.md rule R43). -/
def cmdOffset : Offset := 0x010

/-- The offset of STATUS (10_state.md rule R43). -/
def statusOffset : Offset := 0x018

/-- The value a read of a register returns (10_state.md rules R44 to R65). -/
def readReg (s : State) : Reg → Word
  | .id => idWord s.params
  | .nMax => nMaxWord s.params
  | .cmd => 0
  | .status => statusWord s.status
  | .inten => intenWord s.doneIE
  | .opa => s.opa
  | .opb => s.opb
  | .cfgSize => s.cfgSize
  | .cfgSeed => s.cfgSeed
  | .cfgL => s.cfgL
  | .errDetail => s.errDetail
  | .actN => if s.status.cfgValid then BitVec.ofNat 64 s.act.n else 0
  | .cfgDelta j => s.cfgDelta.getD j 0

/-- A read of the port: an unmapped offset reads 0 (20_memory.md rule R101). -/
def hostRead (s : State) (off : Offset) : Word :=
  match regAt s.params off with
  | some r => readReg s r
  | none => 0

/-- A write to STATUS (10_state.md rule R55): bit 1 clears DONE, bit 5 clears OVR, every other bit is ignored. -/
def writeStatus (v : Word) (s : State) : State :=
  { s with status := { s.status with
      done := s.status.done && !v.getLsbD 1
      ovr := s.status.ovr && !v.getLsbD 5 } }

/-- A write to CMD (60_exceptions.md rule R453): dropped with OVR = 1 while BUSY = 1, otherwise a launch, whose latency is
drawn (log 7). -/
def writeCmd (v : Word) (s : State) : State :=
  if s.status.busy then { s with status := { s.status with ovr := true } }
  else (launch v s).drawLatency

/-- A write to a register, under its access rule (10_state.md rules R43, R65). -/
def writeReg (v : Word) (s : State) : Reg → State
  | .id => s
  | .nMax => s
  | .cmd => writeCmd v s
  | .status => writeStatus v s
  | .inten => { s with doneIE := v.getLsbD 0 }
  | .opa => { s with opa := v }
  | .opb => { s with opb := v }
  | .cfgSize => { s with cfgSize := v }
  | .cfgSeed => { s with cfgSeed := v }
  | .cfgL => { s with cfgL := v }
  | .errDetail => s
  | .actN => s
  | .cfgDelta j => { s with cfgDelta := s.cfgDelta.set j v }

/-- A write of the port: a write to an unmapped offset is ignored (20_memory.md rule R101). -/
def hostWrite (s : State) (off : Offset) (v : Word) : State :=
  match regAt s.params off with
  | some r => writeReg v s r
  | none => s

/-- The host's request in a cycle with rst = 0, if it makes one. -/
def applyAccess (s : State) : Option Access → State
  | none => s
  | some (.rd off) => s.setRdata (hostRead s off)
  | some (.wr off v) => hostWrite s off v

/-- The engine's part of a clock cycle in which a command runs: a stall cycle, or a phase step and the next latency
(70_reset_and_hazards.md rule R520, log 7). -/
def engineCycle (s : State) : Host.Outcome State Fault Refusal :=
  if s.stall = 0 then mapNext State.drawLatency (engineStep s)
  else .next { s with stall := s.stall - 1 }

/-- One clock cycle with rst = 0. The host's request sees the state as it stood before the cycle, BUSY too
(60_exceptions.md rule R453); the engine moves in the cycle if a command was running before it (log 12). -/
def clockCycle (acc : Option Access) (s : State) : Host.Outcome State Fault Refusal :=
  if s.status.busy then engineCycle (applyAccess s acc) else .next (applyAccess s acc)

/-- One clock cycle with rst = 1 (70_reset_and_hazards.md rules R500, R502): the reset state; a write is ignored and a read
returns 0. -/
def resetCycle (acc : Option Access) (s : State) : State :=
  match acc with
  | some (.rd _) => (resetState s).setRdata 0
  | _ => resetState s

/-- The last STATUS read of a WAIT (30_encoding.md rule R156). -/
def pollStatus (s : State) : State := s.setRdata (statusWord s.status)

end Sys2Proof.Machine
end

