-- ==== Sys2Proof/Machine/Step.lean ====
section
/-! DEFINITION. One step of the machine: the oldest host operation is taken (log 8). `cycle` and `wait` are clock cycles;
`issue` is `WR CMD, v ; WAIT`, a command run whole (log 9). -/

namespace Sys2Proof.Machine

/-- One step of the machine. With no host operation left the clock goes on and the host is idle. -/
def step (s : State) : Host.Outcome State Fault Refusal :=
  match s.inputs with
  | [] => clockCycle none s
  | .cycle false acc :: rest => clockCycle acc (s.setInputs rest)
  | .cycle true acc :: rest => .next (resetCycle acc (s.setInputs rest))
  | .wait :: rest =>
    if s.status.busy then clockCycle (some (.rd statusOffset)) s
    else clockCycle (some (.rd statusOffset)) (s.setInputs rest)
  | .issue v :: rest =>
    if s.status.busy then clockCycle (some (.wr cmdOffset v)) (s.setInputs (.wait :: rest))
    else
      match decode v with
      | .command i => mapNext pollStatus (exec i (s.setInputs rest))
      | .illegal _ => .next (pollStatus (runIllegal v (s.setInputs rest)))

/-- `s` with the command word stored where `step` fetches its next command: the host operation that comes next is
`WR CMD, w ; WAIT`, and no command is running, so that the write is accepted (60_exceptions.md rule R453). The host's
later operations stay. -/
def State.withFetchWord (s : State) (nbits w : Nat) : State :=
  { s with
    inputs := .issue (BitVec.ofNat 64 (w % 2 ^ nbits)) :: s.inputs
    status := { s.status with busy := false }
    seq := { s.seq with phase := .idle, fresh := false } }

end Sys2Proof.Machine
end

