-- ==== Sys2Proof/Safety.lean ====
section
/-! DEFINITION. What counts as a sound state and a safe step, in the terms the statements use: the active configuration of
10_state.md rule R72, the consistency of STATUS and PHASE (rules R48 to R54, R63, R76), the frontier registers of
43_range.md rules R391, R392, R401, and a step that answers a next state (60_exceptions.md rule R456). All of it is
decidable. -/

namespace Sys2Proof.Machine

/-- The datapath of an active configuration where no hash is asked for. -/
def plainGeom (p : Params) (a : Active) : Geom := ⟨fun _ _ => 0, p, a⟩

/-- 10_state.md rule R72, with the shift table of 40_config.md rule R208 and the second seed of rule R209. -/
def legalConfig (p : Params) (a : Active) : Bool :=
  let g := plainGeom p a
  decide (1 ≤ g.layers) && decide (g.layers ≤ p.lMax) && decide (1 ≤ a.n) && decide (a.n ≤ p.nMax)
    && (List.range g.layers).all (fun i => decide (1 ≤ g.delta i) && decide (1 ≤ g.wordCount i)
          && decide (g.shift (i + 1) = g.shift i + g.delta i))
    && decide (g.shift 0 = 0) && decide (g.shift g.layers ≤ p.keyW.bits)
    && decide (a.seed2 = secondSeed a.seed)

/-- The register files have their sizes (10_state.md rules R62, R70, R75). -/
def shapeOk (s : State) : Bool :=
  decide (s.cfgDelta.length = s.params.lMax) && decide (s.latch.delta.length = s.params.lMax)
    && decide (s.act.delta.length = s.params.lMax) && decide (s.act.shift.length = s.params.lMax + 1)

/-- What 10_state.md rules R48 to R51 and R63 and 70_reset_and_hazards.md rule R511 say of STATUS and ERRDETAIL
together. -/
def statusOk (s : State) : Bool :=
  (!s.status.busy || (!s.status.done && !s.status.result && !s.status.err && decide (s.errDetail = 0)))
    && (s.status.err == decide (s.status.errCode ≠ 0)) && decide (s.status.errCode.toNat ≤ 5)
    && (!s.status.result || !s.status.err)
    && (decide (s.errDetail = 0) || decide (s.status.errCode = 1)) && decide (s.errDetail.toNat < 128)

/-- What PHASE is between the launch and the first step (60_exceptions.md rule R452): the first phase of DECODE(CUR_OP). -/
def freshPhaseOk (s : State) : Bool :=
  match decode s.latch.curOp with
  | .command i => decide (s.seq.phase = firstPhase i)
  | .illegal _ => decide (s.seq.phase ≠ .idle)

/-- What the phase of a command that has made its first step says of its latch and its counters (10_state.md rules R76 to
R78). -/
def runningPhaseOk (s : State) : Bool :=
  let g := plainGeom s.params s.act
  match s.seq.phase with
  | .idle => true
  | .cfgZero => decide (decode s.latch.curOp = .command .config) && decide (validateLatch s = 0)
      && decide (s.seq.zidx < latchedCells s)
  | .ptLayer => (decide (decode s.latch.curOp = .command .add) || decide (decode s.latch.curOp = .command .contains))
      && decide (pointError s = none) && decide (s.seq.lidx.toNat < g.layers)
  | .rqSeg => decide (decode s.latch.curOp = .command .overlaps) && decide (rangeError s = none)
      && decide (s.seq.layer.toNat < g.layers)
  | .rqItem => decide (decode s.latch.curOp = .command .overlaps) && decide (rangeError s = none)
      && decide (s.seq.layer.toNat < g.layers)
  | .rqSwap => decide (decode s.latch.curOp = .command .overlaps) && decide (rangeError s = none)
      && decide (s.seq.layer.toNat < g.layers)

/-- What PHASE says of the running command (10_state.md rules R76 to R78, 60_exceptions.md rule R452). -/
def phaseOk (s : State) : Bool := if s.seq.fresh then freshPhaseOk s else runningPhaseOk s

/-- The invariant of the machine: sound parameters and sizes, BUSY exactly when PHASE is not IDLE (10_state.md rule R76),
the canonical cell memory, a legal active configuration while CFG_VALID = 1 (rule R72), consistent flags and phase. -/
def State.inv (s : State) : Bool :=
  s.params.wf && shapeOk s && (s.status.busy == decide (s.seq.phase ≠ .idle)) && Memory.wf s.params s.cells
    && (!s.status.cfgValid || legalConfig s.params s.act) && statusOk s && phaseOk s

/-- A segment of layer i stands for whole bit spans that all meet [lo, hi], below 2^W (43_range.md rule R392). -/
def segmentOk (g : Geom) (lo hi i : Nat) (sg : Segment) : Bool :=
  decide (sg.slo % 2 ^ g.shift i = 0) && decide ((sg.shi + 1) % 2 ^ g.shift i = 0) && decide (sg.slo ≤ sg.shi)
    && decide (sg.shi < 2 ^ g.keyBits) && decide (lo < sg.slo + 2 ^ g.shift i)
    && decide (sg.shi + 1 ≤ hi + 2 ^ g.shift i)

/-- The current frontier (43_range.md rule R392): SEG[0] valid, both segments sound, disjoint and ascending. -/
def segsOk (g : Geom) (lo hi : Nat) (q : Sequencer) : Bool :=
  q.seg0.valid && segmentOk g lo hi q.layer.toNat q.seg0
    && (!q.seg1.valid || (segmentOk g lo hi q.layer.toNat q.seg1 && decide (q.seg0.shi < q.seg1.slo)))
    && (decide (q.segIdx = 0) || q.seg1.valid)

/-- How many covering checks of layer i lie before the cursor: the bit spans of lo and of hi, which may be one
(43_range.md rule R391). -/
def coveringPassed (g : Geom) (lo hi i cursor : Nat) : Nat :=
  (if alignw lo (g.shift i) < cursor then 1 else 0)
    + (if alignw lo (g.shift i) ≠ alignw hi (g.shift i) ∧ alignw hi (g.shift i) < cursor then 1 else 0)

/-- The next frontier so far (43_range.md rules R391, R394, R401): NCOUNT valid entries, sound at the layer below, disjoint,
ascending and behind the cursor, no more of them than covering checks passed. -/
def nsegsOk (g : Geom) (lo hi : Nat) (q : Sequencer) : Bool :=
  let i := q.layer.toNat
  let sound (sg : Segment) : Bool := segmentOk g lo hi (i - 1) sg && decide (sg.shi < q.cursor)
  decide (q.ncount.toNat ≤ coveringPassed g lo hi i q.cursor)
    && (decide (q.ncount = 0) || (decide (1 ≤ i) && q.nseg0.valid && sound q.nseg0))
    && (q.nseg0.valid == decide (q.ncount ≠ 0)) && (q.nseg1.valid == decide (q.ncount = 2))
    && (!q.nseg1.valid || (sound q.nseg1 && decide (q.nseg0.shi < q.nseg1.slo)))

/-- Where the cursor stands in the current segment: at a check of it, or just behind its last one. -/
def cursorOk (g : Geom) (q : Sequencer) : Bool :=
  decide (q.cursor % 2 ^ g.shift q.layer.toNat = 0) && decide ((currentSegment q).slo ≤ q.cursor)
    && decide (q.cursor ≤ (currentSegment q).shi + 1)

/-- The range registers of an OVERLAPS that has made its first step (10_state.md rule R77, 43_range.md rules R391 to
R401). -/
def rangeRegsOk (s : State) : Bool :=
  let g := plainGeom s.params s.act
  let lo := queryLo s
  let hi := queryHi s
  match s.seq.phase with
  | .rqItem => segsOk g lo hi s.seq && nsegsOk g lo hi s.seq && cursorOk g s.seq
  | .rqSeg => segsOk g lo hi s.seq && nsegsOk g lo hi s.seq
      && decide (s.seq.cursor = (currentSegment s.seq).shi + 1)
  | .rqSwap => nsegsOk g lo hi s.seq
  | .idle => true
  | .cfgZero => true
  | .ptLayer => true

/-- The range registers while OVERLAPS runs: they are written in its first step (43_range.md rule R399). -/
def frontierOk (s : State) : Bool := s.seq.fresh || rangeRegsOk s

/-- A step that does not stop. -/
def Answers (o : Host.Outcome State Fault Refusal) : Prop := ∃ t, o = .next t

/-- STATUS after a successful completion (60_exceptions.md rule R454) of a command launched at STATUS `t`: `op` is the
command's opcode, `r` its result; CFG_VALID and OVR are those of `t` (rules R452, R454). -/
def succeeded (t : Status) (op : BitVec 4) (r : Bool) : Status :=
  ⟨false, true, r, false, t.cfgValid, t.ovr, 0, op⟩

/-- STATUS after an error completion (60_exceptions.md rule R455) of a command launched at STATUS `t`. -/
def failed (t : Status) (op : BitVec 4) (e : ErrorCode) : Status :=
  ⟨false, true, false, true, t.cfgValid, t.ovr, errorNumber e, op⟩

/-- The registers that only the host writes, the parameters, and what the outside does next are as before. -/
def HostRegsKept (s t : State) : Prop :=
  t.params = s.params ∧ t.doneIE = s.doneIE ∧ t.opa = s.opa ∧ t.opb = s.opb ∧ t.cfgSize = s.cfgSize
    ∧ t.cfgSeed = s.cfgSeed ∧ t.cfgL = s.cfgL ∧ t.cfgDelta = s.cfgDelta ∧ t.inputs = s.inputs ∧ t.rdata = s.rdata
    ∧ t.resets = s.resets

/-- The latch of `t` is what a launch of the word `v` in `s` writes (10_state.md rule R75, 60_exceptions.md rule R452). -/
def LatchedFrom (v : Word) (s t : State) : Prop :=
  t.latch = ⟨v, s.opa, s.opb, s.cfgSize, s.cfgSeed, s.cfgL, s.cfgDelta⟩

/-- `t` is `s` after the command word `v` has ended in error `e` with detail `det`: STATUS, ERRDETAIL, the latch and PHASE
are written, the cells, the active configuration and the host's registers are not (60_exceptions.md rules R452, R455). -/
def EndedInError (v : Word) (e : ErrorCode) (det : Word) (s t : State) : Prop :=
  t.status = failed s.status (v.extractLsb' 0 4) e ∧ t.errDetail = det ∧ LatchedFrom v s t ∧ t.seq.phase = .idle
    ∧ t.cells = s.cells ∧ t.act = s.act ∧ HostRegsKept s t

/-- The next step of `s` is one that may clear cells: reset, a clearing pass under way, or a CONFIG whose parameters are
valid, run whole (10_state.md rule R74). -/
def clearsFilter (s : State) : Bool :=
  rstNow s || (decide (s.seq.phase = .cfgZero) && !s.seq.fresh) ||
    match s.inputs with
    | .issue v :: _ => !s.status.busy && decide (decode v = .command .config)
        && decide (validate s.params s.cfgSize s.cfgL s.cfgDelta = 0)
    | _ => false

/-- `Later s t`: the machine goes from `s` to `t` in some steps, none of them a reset or part of a successful CONFIG. -/
inductive Later : State → State → Prop
  | refl (s : State) : Later s s
  | step {s t u : State} : Later s t → clearsFilter t = false → step t = .next u → Later s u

/-- `s` with other operand registers, as two register writes of the host leave it (10_state.md rules R57, R58). -/
def withOperands (s : State) (a b : Word) : State := { s with opa := a, opb := b }

/-- OVR set, everything else as it was (60_exceptions.md rule R453). -/
def withOvr (s : State) : State := { s with status := { s.status with ovr := true } }

/-- A dyadic interval of width 2^w (43_range.md rule R353). -/
def Check.dyadic (w : Nat) (c : Check) : Prop := c.low % 2 ^ w = 0 ∧ c.high = c.low + 2 ^ w - 1

/-- What its tag says of a check (43_range.md rule R358). -/
def Check.tagOk (lo hi : Nat) (c : Check) : Prop :=
  match c.loc with
  | .notYetSplit => c.low ≤ lo ∧ hi ≤ c.high
  | .left => lo ≤ c.high ∧ c.high ≤ hi
  | .right => lo ≤ c.low ∧ c.low ≤ hi

/-- The bit span of layer i that contains k lies in [lo, hi] (43_range.md rule R367). -/
def Geom.spanInside (g : Geom) (lo hi i k : Nat) : Bool :=
  decide (lo ≤ alignw k (g.shift i)) && decide (alignw k (g.shift i) + 2 ^ g.shift i - 1 ≤ hi)

/-- c(k), the largest layer whose bit span of k lies in [lo, hi] (43_range.md rule R367). -/
def Geom.coarsestInside (g : Geom) (lo hi k : Nat) : Nat :=
  Nat.findGreatest (fun i => g.spanInside lo hi i k = true) (g.layers - 1)

end Sys2Proof.Machine
end

