-- ==== Sys2Proof/Certificates/Slice0/Obligations.lean ====
section
/-! DEFINITION. The statements for the provers. Each docstring names the rules of spec/ the statement is read from. -/

open Sys2Proof Sys2Proof.Machine

/-! ### Encoding, decoding, running -/

/-- 30_encoding.md rule R154: DECODE is total, and each of the five outcomes is reached exactly on its words. -/
def Obligations.DecodeReadsExactlyTheFourWords : Prop :=
  ∀ v : Word,
    (decode v = .command .config ↔ v = 1) ∧ (decode v = .command .add ↔ v = 2)
      ∧ (decode v = .command .contains ↔ v = 3) ∧ (decode v = .command .overlaps ↔ v = 4)
      ∧ ((∃ why, decode v = .illegal why) ↔ v ≠ 1 ∧ v ≠ 2 ∧ v ≠ 3 ∧ v ≠ 4)

/-- 30_encoding.md rules R150, R153: words written out from the table decode to their command, and its encoding is that
word; a word with the same OPCODE and a bit of RSVD set does not. -/
def Obligations.WrittenOutWordsDecode : Prop :=
  (decode 0x0000000000000001 = .command .config ∧ encode .config = 0x0000000000000001)
    ∧ (decode 0x0000000000000002 = .command .add ∧ encode .add = 0x0000000000000002)
    ∧ (decode 0x0000000000000003 = .command .contains ∧ encode .contains = 0x0000000000000003)
    ∧ (decode 0x0000000000000004 = .command .overlaps ∧ encode .overlaps = 0x0000000000000004)
    ∧ decode 0x0000000000000014 = .illegal .reservedBits ∧ decode 0x8000000000000001 = .illegal .reservedBits
    ∧ decode 0x0000000000000000 = .illegal .noSuchOpcode ∧ decode 0x0000000000000005 = .illegal .noSuchOpcode

/-- A step runs the decoded command: where the host's next operation is `WR CMD, v ; WAIT`, no command runs and `v` decodes
to `i`, the step is `exec i`, and the WAIT's last STATUS read stands on the port (the model's choice of this granularity,
logs 8, 9 and 13). -/
def Obligations.StepRunsTheDecodedCommand : Prop :=
  ∀ (s : State) (v : Word) (rest : List HostOp) (i : Instr),
    s.inputs = .issue v :: rest → s.status.busy = false → decode v = .command i →
      step s = mapNext pollStatus (exec i (s.setInputs rest))

/-- 30_encoding.md rule R155: an accepted illegal word ends in ILLEGAL_CMD. ERRDETAIL is 0 after it, as the launch left it
(log 11, DEDUCED). That the command and its WAIT are one step, and that the WAIT's last STATUS read stands on the port, is
the model's choice (logs 8, 9 and 13). -/
def Obligations.IllegalWordEndsInError : Prop :=
  ∀ (s : State) (v : Word) (rest : List HostOp) (why : IllegalWord),
    s.inputs = .issue v :: rest → s.status.busy = false → decode v = .illegal why →
      ∃ t, step s = .next (pollStatus t) ∧ EndedInError v .illegalCmd 0 (s.setInputs rest) t

/-- 30_encoding.md rule R156: WAIT ends at the first STATUS read that finds BUSY = 0, and goes on while BUSY = 1; its
reads change no register. WAIT as one of the list of host operations is log 8, the answer held in `rdata` log 13. That the
read of a cycle, also of the cycle of a completion, answers STATUS as it stood before the engine moves is the model's reading
(log 12, DEDUCED), and that the engine's part of a cycle is a stall cycle or one phase step is its choice (log 7). -/
def Obligations.WaitPollsStatusUntilIdle : Prop :=
  ∀ (s : State) (rest : List HostOp), s.inputs = .wait :: rest →
    (s.status.busy = false → step s = .next ((s.setInputs rest).setRdata (statusWord s.status)))
      ∧ (s.status.busy = true → step s = engineCycle (s.setRdata (statusWord s.status)))

/-! ### The host registers -/

/-- 20_memory.md rule R101: an offset is mapped exactly when it is a multiple of 8 and one of the table's; any other reads 0
and ignores writes; only CMD and STATUS writes change STATUS. -/
def Obligations.UnmappedOffsetsReadZeroAndIgnoreWrites : Prop :=
  ∀ (s : State) (off : Offset) (v : Word),
    ((off.toNat % 8 ≠ 0 ∨ (0x060 ≤ off.toNat ∧ off.toNat ≤ 0x0FF) ∨ 0x100 + 8 * s.params.lMax ≤ off.toNat) →
        hostRead s off = 0 ∧ hostWrite s off v = s)
      ∧ (off.toNat % 8 = 0 ∧ (off.toNat < 0x060 ∨ (0x100 ≤ off.toNat ∧ off.toNat < 0x100 + 8 * s.params.lMax)) →
        ∃ r, regAt s.params off = some r)
      ∧ (off ≠ cmdOffset → off ≠ statusOffset → (hostWrite s off v).status = s.status)

/-- 10_state.md rules R43, R56 to R62, R65: which register each offset names, for reads and for writes; a write changes
that register and nothing else; a read after a write returns what the register's access rule keeps. -/
def Obligations.ReadsReturnWhatWritesKept : Prop :=
  ∀ (s : State) (v : Word), s.cfgDelta.length = s.params.lMax →
    hostRead (hostWrite s 0x020 v) 0x020 = v &&& 1 ∧ hostRead (hostWrite s 0x028 v) 0x028 = v
      ∧ hostRead (hostWrite s 0x030 v) 0x030 = v ∧ hostRead (hostWrite s 0x038 v) 0x038 = v
      ∧ hostRead (hostWrite s 0x040 v) 0x040 = v ∧ hostRead (hostWrite s 0x048 v) 0x048 = v
      ∧ (∀ j, j < s.params.lMax → j < 480 →
          hostRead (hostWrite s (BitVec.ofNat 12 (0x100 + 8 * j)) v) (BitVec.ofNat 12 (0x100 + 8 * j)) = v)
      ∧ hostRead (hostWrite s 0x010 v) 0x010 = 0
      ∧ hostWrite s 0x000 v = s ∧ hostWrite s 0x008 v = s ∧ hostWrite s 0x050 v = s ∧ hostWrite s 0x058 v = s
      ∧ hostWrite s 0x020 v = { s with doneIE := v.getLsbD 0 } ∧ hostWrite s 0x028 v = { s with opa := v }
      ∧ hostWrite s 0x030 v = { s with opb := v } ∧ hostWrite s 0x038 v = { s with cfgSize := v }
      ∧ hostWrite s 0x040 v = { s with cfgSeed := v } ∧ hostWrite s 0x048 v = { s with cfgL := v }
      ∧ (∀ j, j < s.params.lMax → j < 480 →
          hostWrite s (BitVec.ofNat 12 (0x100 + 8 * j)) v = { s with cfgDelta := s.cfgDelta.set j v }
            ∧ hostRead s (BitVec.ofNat 12 (0x100 + 8 * j)) = s.cfgDelta.getD j 0)
      ∧ hostRead s 0x010 = 0 ∧ hostRead s 0x018 = statusWord s.status
      ∧ hostRead s 0x020 = (if s.doneIE then 1 else 0) ∧ hostRead s 0x028 = s.opa ∧ hostRead s 0x030 = s.opb
      ∧ hostRead s 0x038 = s.cfgSize ∧ hostRead s 0x040 = s.cfgSeed ∧ hostRead s 0x048 = s.cfgL
      ∧ hostRead s 0x050 = s.errDetail
      ∧ cmdOffset = 0x010 ∧ statusOffset = 0x018

/-- 10_state.md rules R44, R45, R63, R64: what ID, NMAX, ERRDETAIL and ACT_N read. -/
def Obligations.ConstantRegistersReadTheParameters : Prop :=
  ∀ s : State, s.params.wf = true →
    (hostRead s 0x000).toNat
        = 1 + 2 ^ 16 * s.params.keyW.bits + 2 ^ 24 * s.params.cellB.bits + 2 ^ 32 * s.params.lMax
      ∧ hostRead s 0x008 = BitVec.ofNat 64 s.params.nMax
      ∧ hostRead s 0x050 = s.errDetail
      ∧ (s.status.cfgValid = true → hostRead s 0x058 = BitVec.ofNat 64 s.act.n)
      ∧ (s.status.cfgValid = false → hostRead s 0x058 = 0)
      ∧ idWord Params.reference = 0x0000004040400001

/-- 10_state.md rule R47: where each field of STATUS stands; every reserved bit reads 0. -/
def Obligations.StatusWordHasTheFieldsInTheirBits : Prop :=
  ∀ t : Status,
    (statusWord t).getLsbD 0 = t.busy ∧ (statusWord t).getLsbD 1 = t.done ∧ (statusWord t).getLsbD 2 = t.result
      ∧ (statusWord t).getLsbD 3 = t.err ∧ (statusWord t).getLsbD 4 = t.cfgValid ∧ (statusWord t).getLsbD 5 = t.ovr
      ∧ (statusWord t).extractLsb' 6 2 = 0 ∧ (statusWord t).extractLsb' 8 4 = t.errCode
      ∧ (statusWord t).extractLsb' 12 4 = t.lastOp ∧ (statusWord t).extractLsb' 16 48 = 0

/-- 10_state.md rule R55: what a write to STATUS does, and that a read of it has no side effect (the answer itself stands
on the port, log 13). -/
def Obligations.StatusWriteClearsDoneAndOvr : Prop :=
  ∀ (s : State) (v : Word),
    hostWrite s statusOffset v
        = { s with status := { s.status with
            done := if v.getLsbD 1 then false else s.status.done
            ovr := if v.getLsbD 5 then false else s.status.ovr } }
      ∧ applyAccess s (some (.rd statusOffset)) = s.setRdata (statusWord s.status)

/-- 10_state.md rule R66: IRQ is DONE & DONE_IE, and 0 after reset; 70_reset_and_hazards.md rule R500: 0 while rst = 1,
the level of rst being read off the host operation that comes next (the model's reading, log 17, DEDUCED). -/
def Obligations.IrqIsDoneAndItsEnable : Prop :=
  (∀ s : State, rstNow s = false → irq s = (s.status.done && s.doneIE)) ∧ irq State.reset = false
    ∧ ∀ s : State, rstNow s = true → irq s = false

/-- 60_exceptions.md rule R458: IRQ rises with a completion of either kind where DONE_IE = 1, and at once where DONE_IE is set
while DONE = 1; it falls where DONE or DONE_IE is cleared and at a launch; a dropped CMD write does not touch
it. The level of rst is read off the next host operation (log 17, DEDUCED). -/
def Obligations.IrqRisesAndFallsWithDone : Prop :=
  ∀ (s : State) (v det : Word) (r : Bool) (e : ErrorCode), rstNow s = false →
    irq (complete r s) = s.doneIE ∧ irq (raiseError e det s) = s.doneIE
      ∧ (s.status.done = true → irq (hostWrite s 0x020 1) = true) ∧ irq (hostWrite s 0x020 0) = false
      ∧ (v.getLsbD 1 = true → irq (hostWrite s statusOffset v) = false)
      ∧ irq (launch v s) = false ∧ (s.status.busy = true → irq (hostWrite s cmdOffset v) = irq s)

/-! ### Launch, completion, reset -/

/-- 60_exceptions.md rules R452, R454, R455: what the atomic steps LAUNCH, COMPLETE and RAISE write and leave. PHASE after a
launch is the first phase of DECODE(v): RQ_ITEM for OVERLAPS is the model's reading (log 19, DEDUCED), and for an illegal
word it is any value but IDLE (log 20). -/
def Obligations.LaunchAndCompletionWriteTheirRegisters : Prop :=
  ∀ (s : State) (v det : Word) (r : Bool) (e : ErrorCode),
    (LatchedFrom v s (launch v s) ∧ HostRegsKept s (launch v s) ∧ (launch v s).errDetail = 0
        ∧ (launch v s).status = { s.status with
            busy := true, done := false, result := false, err := false, errCode := 0 }
        ∧ (launch v s).seq.phase ≠ .idle ∧ (v = 1 → (launch v s).seq.phase = .cfgZero)
        ∧ (v = 2 ∨ v = 3 → (launch v s).seq.phase = .ptLayer) ∧ (v = 4 → (launch v s).seq.phase = .rqItem)
        ∧ (launch v s).cells = s.cells ∧ (launch v s).act = s.act)
      ∧ ((complete r s).status = succeeded s.status (s.latch.curOp.extractLsb' 0 4) r
        ∧ HostRegsKept s (complete r s) ∧ (complete r s).errDetail = s.errDetail ∧ (complete r s).latch = s.latch
        ∧ (complete r s).seq.phase = .idle ∧ (complete r s).cells = s.cells ∧ (complete r s).act = s.act)
      ∧ ((raiseError e det s).status = failed s.status (s.latch.curOp.extractLsb' 0 4) e
        ∧ HostRegsKept s (raiseError e det s) ∧ (raiseError e det s).errDetail = det
        ∧ (raiseError e det s).latch = s.latch ∧ (raiseError e det s).seq.phase = .idle
        ∧ (raiseError e det s).cells = s.cells ∧ (raiseError e det s).act = s.act)

/-- 60_exceptions.md rule R453: a CMD write is launched where BUSY = 0 before the cycle, and where BUSY = 1 it sets OVR and
changes nothing else: the cycle is what it would have been, also when the command completes in it. That the launch draws the
latency of the first step, in `stall` and `tick`, is the model's choice (log 7). -/
def Obligations.CmdWriteIsAcceptedOrDropped : Prop :=
  ∀ (s : State) (v : Word),
    (s.status.busy = false → clockCycle (some (.wr cmdOffset v)) s = .next (launch v s).drawLatency)
      ∧ (s.status.busy = true →
          clockCycle (some (.wr cmdOffset v)) s = mapNext withOvr (clockCycle none s))

/-- 70_reset_and_hazards.md rule R512: any other register write in a cycle in which a command runs takes effect in the
register and not in the command. -/
def Obligations.StagedWritesDoNotTouchTheRunningCommand : Prop :=
  ∀ (s : State) (off : Offset) (v : Word), s.status.busy = true → off ≠ cmdOffset → off ≠ statusOffset →
    clockCycle (some (.wr off v)) s = mapNext (fun t => hostWrite t off v) (clockCycle none s)

/-- 70_reset_and_hazards.md rules R500, R502, R503: a cycle with rst = 1, at any point, leaves the reset state; a write in it
is ignored and a read answers 0. The model's choices in it: the answer stands in `rdata` (log 13), the parameters are kept in
State (log 5), and the later host operations stay (log 8). -/
def Obligations.ResetCycleLeavesTheResetState : Prop :=
  ∀ (s : State) (acc : Option Access) (rest : List HostOp), s.inputs = .cycle true acc :: rest →
    ∃ t, step s = .next t ∧ statusWord t.status = 0 ∧ t.doneIE = false ∧ t.opa = 0 ∧ t.opb = 0 ∧ t.cfgSize = 0
      ∧ t.cfgSeed = 0 ∧ t.cfgL = 0 ∧ (∀ j, t.cfgDelta.getD j 0 = 0) ∧ t.errDetail = 0 ∧ readReg t .actN = 0
      ∧ t.seq.phase = .idle ∧ irq t = false ∧ readReg t .id = idWord s.params
      ∧ readReg t .nMax = BitVec.ofNat 64 s.params.nMax ∧ t.params = s.params ∧ t.inputs = rest
      ∧ (∀ off, acc = some (.rd off) → t.rdata = 0)

/-- The state right after reset meets the machine's invariants, for every sound choice of the parameters (the values of the
hidden registers and cells in it are the model's, logs 2 and 4). -/
def Obligations.ResetStateIsSound : Prop :=
  (∀ p : Params, p.wf = true → (State.resetOf p).inv = true ∧ frontierOk (State.resetOf p) = true)
    ∧ State.reset = State.resetOf Params.reference ∧ Params.reference.wf = true

/-! ### Invariants of every step -/

/-- Every step keeps the invariant of the machine: 10_state.md rules R48 to R51, R63, R72, R76, the canonical cell memory. -/
def Obligations.StepKeepsTheInvariant : Prop :=
  ∀ s t : State, s.inv = true → step s = .next t → t.inv = true

/-- Every step keeps the frontier registers sound: 43_range.md rules R391, R392, R394, R401, and their widths (10_state.md
rule R77). -/
def Obligations.StepKeepsTheFrontier : Prop :=
  ∀ s t : State, s.inv = true → frontierOk s = true → step s = .next t → frontierOk t = true

/-- 60_exceptions.md rule R456, 20_memory.md rule R104, 43_range.md rule R401: nothing stops the machine. -/
def Obligations.StepNeverStops : Prop :=
  ∀ s : State, s.inv = true → frontierOk s = true → Answers (step s)

/-! ### CONFIG -/

/-- 40_config.md rule R202: every bit of ERRDETAIL that VALIDATE finds, and that CONFIG succeeds exactly when none is set. -/
def Obligations.ErrDetailNamesEveryFailedCheck : Prop :=
  (∀ (p : Params) (size l : Word) (delta : List Word), delta.length = p.lMax →
    let v := validate p size l delta
    let m := min l.toNat p.lMax
    let n := (size.toNat + p.cellB.bits / 8 - 1) / (p.cellB.bits / 8)
    let d := fun j => (delta.getD j 0).toNat
    (v.getLsbD 0 = true ↔ size = 0) ∧ (v.getLsbD 1 = true ↔ l = 0) ∧ (v.getLsbD 2 = true ↔ l.toNat > p.lMax)
      ∧ (v.getLsbD 3 = true ↔ ∃ j, j < m ∧ d j = 0)
      ∧ (v.getLsbD 4 = true ↔ ∑ j ∈ Finset.range m, d j > p.keyW.bits)
      ∧ (v.getLsbD 5 = true ↔ n > p.nMax)
      ∧ (v.getLsbD 6 = true ↔ size ≠ 0 ∧ n ≤ p.nMax ∧ ∃ j, j < m ∧ d j ≥ 1 ∧ 2 ^ (d j - 1) > n * p.cellB.bits)
      ∧ ∀ k, 7 ≤ k → v.getLsbD k = false)
  ∧ ∀ s t : State, exec .config s = .next t →
      (t.status.err = false ↔ validate s.params s.cfgSize s.cfgL s.cfgDelta = 0)

/-- 40_config.md rule R201: N is the ceiling of size_bytes / (B/8), exactly, and N·B is at most B − 8 bits more than
8·size_bytes. -/
def Obligations.CellCountIsTheCeiling : Prop :=
  (∀ (p : Params) (size : Word),
    size.toNat ≤ cellCount p size * (p.cellB.bits / 8)
      ∧ cellCount p size * (p.cellB.bits / 8) < size.toNat + p.cellB.bits / 8
      ∧ cellCount p size * p.cellB.bits ≤ 8 * size.toNat + (p.cellB.bits - 8))
    ∧ cellCount Params.reference 16000 = 2000 ∧ cellCount { Params.reference with cellB := .b128 } 16000 = 1000
    ∧ cellCount Params.reference 1 = 1

/-- 40_config.md rules R208, R209, R211, R212: a CONFIG with valid parameters clears cells 0 to N − 1 and no other, makes
the configuration active, legally, and completes. -/
def Obligations.ConfigMakesTheFilter : Prop :=
  ∀ s : State, s.params.wf = true → s.cfgDelta.length = s.params.lMax → Memory.wf s.params s.cells = true →
    validate s.params s.cfgSize s.cfgL s.cfgDelta = 0 →
    ∃ t, exec .config s = .next t
      ∧ t.status = { succeeded s.status 1 false with cfgValid := true } ∧ t.errDetail = 0
      ∧ LatchedFrom 1 s t ∧ t.seq.phase = .idle ∧ HostRegsKept s t
      ∧ (∀ c, c < cellCount s.params s.cfgSize → Memory.read t.cells c = 0)
      ∧ (∀ c, cellCount s.params s.cfgSize ≤ c → Memory.read t.cells c = Memory.read s.cells c)
      ∧ t.act.n = cellCount s.params s.cfgSize ∧ t.act.seed = s.cfgSeed
      ∧ t.act.seed2.toNat = (845897321 * s.cfgSeed.toNat + 217728422) % 2 ^ 64
      ∧ t.act.l.toNat = s.cfgL.toNat
      ∧ (∀ j, j < s.cfgL.toNat → (t.act.delta.getD j 0).toNat = (s.cfgDelta.getD j 0).toNat)
      ∧ (t.act.shift.getD 0 0).toNat = 0
      ∧ (∀ j, j < s.cfgL.toNat →
          (t.act.shift.getD (j + 1) 0).toNat = (t.act.shift.getD j 0).toNat + (s.cfgDelta.getD j 0).toNat)
      ∧ (t.act.shift.getD s.cfgL.toNat 0).toNat = ∑ j ∈ Finset.range s.cfgL.toNat, (s.cfgDelta.getD j 0).toNat
      ∧ (t.act.shift.getD s.cfgL.toNat 0).toNat ≤ s.params.keyW.bits
      ∧ legalConfig t.params t.act = true

/-- 40_config.md rules R210, R213: a CONFIG whose parameters fail a check changes STATUS, ERRDETAIL and the latch only. -/
def Obligations.FailedConfigKeepsTheFilter : Prop :=
  ∀ s : State, validate s.params s.cfgSize s.cfgL s.cfgDelta ≠ 0 →
    ∃ t, exec .config s = .next t
      ∧ EndedInError 1 .invalidParams (validate s.params s.cfgSize s.cfgL s.cfgDelta) s t
      ∧ readReg t .actN = readReg s .actN

/-! ### ADD and CONTAINS -/

/-- 42_point.md rule R301: ADD sets the bit LOCATE(i, key) of every layer i and no other bit of any cell, and completes. -/
def Obligations.AddSetsTheKeysBits : Prop :=
  ∀ s : State, s.status.cfgValid = true → keyFits s.params s.opa = true →
    (s.geom Config.hash).addressable = true →
    ∃ t, exec .add s = .next t ∧ t.status = succeeded s.status 2 false ∧ t.errDetail = 0
      ∧ LatchedFrom 2 s t ∧ t.seq.phase = .idle ∧ t.act = s.act ∧ HostRegsKept s t
      ∧ ∀ c j, Memory.bit t.cells c j = true ↔
          Memory.bit s.cells c j = true ∨
            ∃ i, i < (s.geom Config.hash).layers
              ∧ ((s.geom Config.hash).locate i (keyOf s.params s.opa)).1 = c
              ∧ ((s.geom Config.hash).locate i (keyOf s.params s.opa)).2.getLsbD j = true

/-- 42_point.md rule R302: CONTAINS answers whether the bit of every layer is set, writes no cell, and completes. -/
def Obligations.ContainsAnswersWhetherEveryBitIsSet : Prop :=
  ∀ s : State, s.status.cfgValid = true → keyFits s.params s.opa = true →
    (s.geom Config.hash).addressable = true →
    ∃ t, exec .contains s = .next t ∧ t.status = succeeded s.status 3 t.status.result ∧ t.errDetail = 0
      ∧ LatchedFrom 3 s t ∧ t.seq.phase = .idle ∧ t.cells = s.cells ∧ t.act = s.act ∧ HostRegsKept s t
      ∧ (t.status.result = true ↔
          ∀ i, i < (s.geom Config.hash).layers →
            Memory.read s.cells ((s.geom Config.hash).locate i (keyOf s.params s.opa)).1
              &&& ((s.geom Config.hash).locate i (keyOf s.params s.opa)).2 ≠ 0)

/-- 42_point.md rule R300, 30_encoding.md rule R152: the errors of ADD and CONTAINS, in their order; at W = 64 every operand
fits. -/
def Obligations.PointCommandsCheckTheirPreconditions : Prop :=
  (∀ (s : State) (i : Instr), i = .add ∨ i = .contains →
    (s.status.cfgValid = false → ∃ t, exec i s = .next t ∧ EndedInError (encode i) .notConfigured 0 s t)
      ∧ (s.status.cfgValid = true → 2 ^ s.params.keyW.bits ≤ s.opa.toNat →
          ∃ t, exec i s = .next t ∧ EndedInError (encode i) .keyWidth 0 s t))
    ∧ ∀ v : Word, v.toNat < 2 ^ KeyWidth.w64.bits

/-! ### OVERLAPS -/

/-- 43_range.md rule R350: OVERLAPS answers OVERLAPS_REF(lo, hi), writes no cell, and completes. -/
def Obligations.OverlapsAnswersTheReference : Prop :=
  ∀ s : State, s.status.cfgValid = true → keyFits s.params s.opa = true → keyFits s.params s.opb = true →
    s.opa.toNat ≤ s.opb.toNat → (s.geom Config.hash).addressable = true →
    ∃ t, exec .overlaps s = .next t
      ∧ t.status = succeeded s.status 4
          ((s.geom Config.hash).overlapsRef s.cells s.opa.toNat s.opb.toNat)
      ∧ t.errDetail = 0 ∧ LatchedFrom 4 s t ∧ t.seq.phase = .idle ∧ t.cells = s.cells ∧ t.act = s.act
      ∧ HostRegsKept s t

/-- 43_range.md rules R350, R351, 60_exceptions.md rule R457: the errors of OVERLAPS, in their order. -/
def Obligations.OverlapsChecksItsPreconditions : Prop :=
  ∀ s : State,
    (s.status.cfgValid = false → ∃ t, exec .overlaps s = .next t ∧ EndedInError 4 .notConfigured 0 s t)
      ∧ (s.status.cfgValid = true →
          (2 ^ s.params.keyW.bits ≤ s.opa.toNat ∨ 2 ^ s.params.keyW.bits ≤ s.opb.toNat) →
          ∃ t, exec .overlaps s = .next t ∧ EndedInError 4 .keyWidth 0 s t)
      ∧ (s.status.cfgValid = true → s.opa.toNat < 2 ^ s.params.keyW.bits → s.opb.toNat < 2 ^ s.params.keyW.bits →
          s.opb.toNat < s.opa.toNat →
          ∃ t, exec .overlaps s = .next t ∧ EndedInError 4 .rangeOrder 0 s t)

/-- 43_range.md rule R367: the closed form of OVERLAPS_REF, for every hash. -/
def Obligations.OverlapsReferenceHasItsClosedForm : Prop :=
  ∀ (g : Geom) (m : Memory) (lo hi : Nat), legalConfig g.params g.act = true → lo ≤ hi → hi < 2 ^ g.keyBits →
    (g.overlapsRef m lo hi = true ↔
      ∃ k, lo ≤ k ∧ k ≤ hi ∧ ∀ j, g.coarsestInside lo hi k ≤ j → j < g.layers → g.bitProbe m j k = true)

/-- 43_range.md rule R369: OVERLAPS k, k answers what CONTAINS k answers. -/
def Obligations.OverlapsOfOneKeyIsContains : Prop :=
  ∀ (s : State) (k b : Word), legalConfig s.params s.act = true → s.status.cfgValid = true →
    keyFits s.params k = true →
    ∃ t u, exec .overlaps (withOperands s k k) = .next t ∧ exec .contains (withOperands s k b) = .next u
      ∧ t.status.result = u.status.result
      ∧ (t.status.result = true ↔
          ∀ j, j < (s.geom Config.hash).layers → (s.geom Config.hash).bitProbe s.cells j k.toNat = true)

/-- 43_range.md rule R370: a full-domain query answers whether some key's bit of the coarsest layer is set. -/
def Obligations.FullDomainProbesTheCoarsestLayer : Prop :=
  ∀ (g : Geom) (m : Memory), legalConfig g.params g.act = true →
    (g.overlapsRef m 0 (2 ^ g.keyBits - 1) = true ↔
      ∃ k, k < 2 ^ g.keyBits ∧ g.bitProbe m (g.layers - 1) k = true)

/-- 43_range.md rule R358: the initial check meets its tag's condition; what SPLIT1 produces from a check that meets its
own does so too, meets [lo, hi], and has half the width; a NotYetSplit check is alone. -/
def Obligations.SplitKeepsTheTagConditions : Prop :=
  (∀ W lo hi : Nat, lo ≤ hi → hi < 2 ^ W →
      Check.dyadic W ⟨0, 2 ^ W - 1, .notYetSplit⟩ ∧ Check.tagOk lo hi ⟨0, 2 ^ W - 1, .notYetSplit⟩)
    ∧ ∀ (lo hi w : Nat) (c : Check), lo ≤ hi → c.dyadic (w + 1) → c.tagOk lo hi →
        ∀ d ∈ split1 lo hi c, d.dyadic w ∧ d.tagOk lo hi ∧ d.low ≤ hi ∧ lo ≤ d.high
          ∧ (d.loc = .notYetSplit → split1 lo hi c = [d])

/-- 43_range.md rule R359: n split steps of a check give exactly the aligned intervals of the narrower width that lie in it
and meet [lo, hi], each once. -/
def Obligations.AdvanceGivesTheExactChildren : Prop :=
  ∀ (lo hi w n : Nat) (c : Check), lo ≤ hi → n ≤ w → c.dyadic w → c.tagOk lo hi →
    (∀ d ∈ advance lo hi n [c], d.dyadic (w - n))
      ∧ (∀ a, (∃ d ∈ advance lo hi n [c], d.low = a) ↔
          a % 2 ^ (w - n) = 0 ∧ c.low ≤ a ∧ a + 2 ^ (w - n) - 1 ≤ c.high ∧ a ≤ hi ∧ lo ≤ a + 2 ^ (w - n) - 1)
      ∧ ((advance lo hi n [c]).map Check.low).Nodup

/-- 43_range.md rule R391: a covering bit span is the one of lo or the one of hi. -/
def Obligations.AtMostTwoChecksAreCovering : Prop :=
  ∀ (lo hi a s : Nat), lo ≤ hi → a % 2 ^ s = 0 → a ≤ hi → lo ≤ a + 2 ^ s - 1 →
    (a < lo ∨ hi < a + 2 ^ s - 1) → a = alignw lo s ∨ a = alignw hi s

/-! ### Hash, words and probes -/

/-- 41_hash_locate.md rules R251, R253, R254: the layer hash is the seeded double hash of the prefix, in 64-bit
arithmetic, for every HASH. -/
def Obligations.LayerHashIsTheSeededDoubleHash : Prop :=
  ∀ (g : Geom) (i k : Nat),
    let bytes := leBytes g.keyBits (k >>> (g.shift i + g.delta i - 1))
    BitVec.ofNat 64 (g.layerHash i k)
        = g.hash bytes g.act.seed + BitVec.ofNat 64 i * g.hash bytes g.act.seed2 + BitVec.ofNat 64 (i * i)
      ∧ g.layerHash i k < 2 ^ 64

/-- 00_scope.md rule R21: LE_W has W/8 bytes, and byte j holds the bits 8j to 8j + 7. -/
def Obligations.KeyBytesAreLittleEndian : Prop :=
  ∀ w v : Nat, (leBytes w v).length = w / 8
    ∧ ∀ j, j < w / 8 → ∀ b, b < 8 → ((leBytes w v).getD j 0).getLsbD b = v.testBit (8 * j + b)

/-- 41_hash_locate.md rule R259: keys of one word span select one word, keys of one bit span one bit, for every hash. -/
def Obligations.KeysOfOneSpanShareTheirBit : Prop :=
  ∀ (g : Geom) (i k k' : Nat), legalConfig g.params g.act = true → i < g.layers →
    (g.keyPrefix i k = g.keyPrefix i k' →
        g.hashA i k = g.hashA i k' ∧ g.hashB i k = g.hashB i k' ∧ g.layerHash i k = g.layerHash i k'
          ∧ g.wordIndex i k = g.wordIndex i k')
      ∧ (k >>> g.shift i = k' >>> g.shift i → g.offset i k = g.offset i k' ∧ g.locate i k = g.locate i k')

/-- 41_hash_locate.md rule R263: LOCATE is the form of rule R260 for small words and of rule R261 for large ones, and names
one bit of one cell below N (20_memory.md rule R104). -/
def Obligations.LocateAgreesWithBothRegimes : Prop :=
  ∀ (g : Geom) (i k : Nat),
    (g.wordWidth i ≤ g.cellBits → g.locate i k = g.locateSmall i (g.wordIndex i k) (g.offset i k))
      ∧ (g.cellBits < g.wordWidth i → g.locate i k = g.locateLarge i (g.wordIndex i k) (g.offset i k))
      ∧ (g.addressable = true → i < g.layers →
          (g.locate i k).1 < g.act.n ∧ ∃ j, j < g.cellBits ∧ (g.locate i k).2 = bitMask j)

/-- 41_hash_locate.md rule R269: a range probe inside one word span answers whether some key of the range has its bit
set. -/
def Obligations.RangeProbeIsTheOrOfBitProbes : Prop :=
  ∀ (g : Geom) (m : Memory) (i x y : Nat), 1 ≤ g.delta i → x ≤ y → g.keyPrefix i x = g.keyPrefix i y →
    (g.rangeProbe m i x y = true ↔ ∃ k, x ≤ k ∧ k ≤ y ∧ g.bitProbe m i k = true)

/-- 41_hash_locate.md rule R267: in the small-word regime a range probe reads one cell under one mask. -/
def Obligations.SmallWordProbeReadsOneCell : Prop :=
  ∀ (g : Geom) (m : Memory) (i x y : Nat), 1 ≤ g.delta i → g.wordWidth i ≤ g.cellBits → x ≤ y →
    g.keyPrefix i x = g.keyPrefix i y →
    g.rangeProbe m i x y
      = decide (Memory.read m (g.locate i x).1
          &&& BitVec.ofNat 128 (ones (g.offset i y - g.offset i x + 1)
            <<< ((g.wordIndex i x % (g.cellBits / g.wordWidth i)) * g.wordWidth i + g.offset i x)) ≠ 0)

/-! ### What the filter promises -/

/-- 10_state.md rule R74: outside a successful CONFIG and reset a bit only goes from 0 to 1; and a step in which no ADD is
running or issued changes no cell. -/
def Obligations.OnlyAddSetsBits : Prop :=
  (∀ s t : State, Later s t →
    t.act = s.act ∧ t.status.cfgValid = s.status.cfgValid ∧ t.params = s.params
      ∧ ∀ c j, Memory.bit s.cells c j = true → Memory.bit t.cells c j = true)
  ∧ ∀ s t : State, step s = .next t → clearsFilter s = false →
      (s.seq.fresh = false → s.seq.phase = .ptLayer → s.latch.curOp ≠ encode .add) →
      (∀ v rest, s.inputs = .issue v :: rest → s.status.busy = false → decode v ≠ .command .add) →
      t.cells = s.cells

/-- 42_point.md rule R304: ADDs are idempotent and commute: what any sequence of ADDs leaves depends only on the set of keys
added, and is the OR of their bits. -/
def Obligations.AddsDependOnlyOnTheSetOfKeys : Prop :=
  ∀ (g : Geom) (m : Memory) (ks ks' : List Nat),
    (∀ c j, Memory.bit (ks.foldl g.addKey m) c j = true ↔
        Memory.bit m c j = true ∨
          ∃ k ∈ ks, ∃ i, i < g.layers ∧ (g.locate i k).1 = c ∧ (g.locate i k).2.getLsbD j = true)
      ∧ (g.addressable = true → Memory.wf g.params m = true → (∀ k, k ∈ ks ↔ k ∈ ks') →
          ks.foldl g.addKey m = ks'.foldl g.addKey m)

/-- 42_point.md rule R305: after ADD k, and as long as no CONFIG succeeds and no reset comes, CONTAINS k answers 1. -/
def Obligations.AddedKeyIsContained : Prop :=
  ∀ s t u : State, exec .add s = .next t → t.status.err = false → Later t u →
    ∃ w, exec .contains (withOperands u s.opa u.opb) = .next w ∧ w.status.err = false ∧ w.status.result = true

/-- 43_range.md rule R371: after ADD k, and as long as no CONFIG succeeds and no reset comes, OVERLAPS of every range that
holds k answers 1. -/
def Obligations.AddedKeyIsFoundByEveryRange : Prop :=
  ∀ (s t u : State) (lo hi : Word), legalConfig s.params s.act = true → exec .add s = .next t →
    t.status.err = false → Later t u → lo.toNat ≤ s.opa.toNat → s.opa.toNat ≤ hi.toNat →
    keyFits s.params hi = true →
    ∃ w, exec .overlaps (withOperands u lo hi) = .next w ∧ w.status.err = false ∧ w.status.result = true

/-- 42_point.md rule R306: an answer 1 stays 1 as long as no CONFIG succeeds and no reset comes. -/
def Obligations.AnswersAreMonotone : Prop :=
  ∀ (s t u : State) (i : Instr), i = .contains ∨ i = .overlaps → exec i s = .next t → t.status.result = true →
    Later s u → ∃ w, exec i (withOperands u s.opa s.opb) = .next w ∧ w.status.result = true

/-- 40_config.md rule R215: on the filter a successful CONFIG leaves, with its cells as CONFIG left them, CONTAINS and every
legal OVERLAPS answer 0. -/
def Obligations.EmptyFilterAnswersNo : Prop :=
  ∀ (s t u : State) (i : Instr), s.inv = true → exec .config s = .next t → t.status.err = false →
    u.params = t.params → u.act = t.act → u.cells = t.cells → i = .contains ∨ i = .overlaps →
    ∃ w, exec i u = .next w ∧ w.status.result = false ∧ w.cells = t.cells

/-- 60_exceptions.md rules R454, R455, R458, 10_state.md rules R49, R54: every command that answers has ended: DONE = 1,
BUSY = 0, LASTOP its opcode, and IRQ is its enable; a command that ends in error has changed no cell and no active
register. -/
def Obligations.EveryCommandEndsDone : Prop :=
  ∀ (i : Instr) (s t : State), exec i s = .next t →
    t.status.done = true ∧ t.status.busy = false ∧ t.seq.phase = .idle
      ∧ t.status.lastOp = (encode i).extractLsb' 0 4 ∧ (t.status.err = true ↔ t.status.errCode ≠ 0)
      ∧ HostRegsKept s t ∧ t.status.ovr = s.status.ovr
      ∧ (rstNow s = false → irq t = s.doneIE)
      ∧ (t.status.err = true →
          t.status.result = false ∧ t.cells = s.cells ∧ t.act = s.act ∧ t.status.cfgValid = s.status.cfgValid)

/-! ### The engine step by step -/

/-- 60_exceptions.md rule R456: an error is found in the first step after launch, before any cell is touched. That the state
marks this step with a field of its own is the model's choice (log 10). -/
def Obligations.ErrorsComeBeforeAnyCellAccess : Prop :=
  ∀ (h : HashFn) (s t : State), engineStepWith h s = .next t → s.status.err = false → t.status.err = true →
    s.seq.fresh = true ∧ t.seq.phase = .idle ∧ t.cells = s.cells ∧ t.act = s.act
      ∧ t.status.cfgValid = s.status.cfgValid

/-- 42_point.md rule R303, 70_reset_and_hazards.md rules R520, R521: ADD takes exactly one PT_LAYER step per layer after its
first step (before that many steps it is still busy), and leaves what the command leaves. How a command is cut into steps is
the model's choice (logs 10 and 16). -/
def Obligations.AddTakesOneStepPerLayer : Prop :=
  ∀ (h : HashFn) (s : State), s.seq.fresh = true → s.status.busy = true → s.latch.curOp = encode .add →
    pointError s = none → (s.geom h).addressable = true → 1 ≤ (s.geom h).layers →
    (∀ n, n ≤ (s.geom h).layers → ∃ t, engineSteps h n s = .next t ∧ t.status.busy = true)
    ∧ ∃ q, q.phase = .idle ∧ q.fresh = false
      ∧ engineSteps h ((s.geom h).layers + 1) s
        = .next ((complete false (s.setCells ((s.geom h).addKey s.cells (pointKey s)))).setSeq q)

/-- 42_point.md rule R303, 70_reset_and_hazards.md rules R520, R521: CONTAINS takes at most one PT_LAYER step per layer
after its first step, and answers what the command answers. How a command is cut into steps, the early exit among it, is the
model's choice (logs 10 and 16). -/
def Obligations.ContainsTakesAtMostOneStepPerLayer : Prop :=
  ∀ (h : HashFn) (s : State), s.seq.fresh = true → s.latch.curOp = encode .contains → pointError s = none →
    (s.geom h).addressable = true → 1 ≤ (s.geom h).layers →
    ∃ n q, n ≤ (s.geom h).layers + 1 ∧ q.phase = .idle ∧ q.fresh = false
      ∧ engineSteps h n s
        = .next ((complete ((s.geom h).containsKey s.cells (pointKey s)) s).setSeq q)

/-- 40_config.md rules R200, R211, R212, 70_reset_and_hazards.md rule R520: a CONFIG with valid parameters takes exactly N
clearing steps after its first step (before that many steps it is still busy), and leaves what the command leaves. How a
command is cut into steps is the model's choice (logs 10 and 16). -/
def Obligations.ConfigTakesOneStepPerCell : Prop :=
  ∀ (h : HashFn) (s : State), s.seq.fresh = true → s.status.busy = true → s.latch.curOp = encode .config →
    validateLatch s = 0 →
    (∀ n, n ≤ latchedCells s → ∃ t, engineSteps h n s = .next t ∧ t.status.busy = true)
    ∧ ∃ q, q.phase = .idle ∧ q.fresh = false
      ∧ engineSteps h (latchedCells s + 1) s
        = .next ((complete false (commit (s.setCells (clearCells (latchedCells s) s.cells)))).setSeq q)

/-- 43_range.md rule R400: for every hash, active configuration, cell state and lo ≤ hi, the sequencer of rule R399 completes
with RESULT = OVERLAPS_REF(lo, hi), and changes nothing but STATUS and the sequencing registers. -/
def Obligations.SequencerAnswersTheReference : Prop :=
  ∀ (h : HashFn) (s : State), legalConfig s.params s.act = true → s.seq.fresh = true →
    s.latch.curOp = encode .overlaps → rangeError s = none →
    ∃ n q, q.phase = .idle ∧ q.fresh = false
      ∧ engineSteps h n s
        = .next ((complete ((s.geom h).overlapsRef s.cells (queryLo s) (queryHi s)) s).setSeq q)

/-- 10_state.md rule R79, 20_memory.md rule R118: run phase step by phase step, every command ends as its meaning says, but
for the sequencing registers. -/
def Obligations.PhaseStepsRefineEveryCommand : Prop :=
  ∀ (s : State) (i : Instr), s.inv = true → s.seq.phase = .idle →
    ∃ n q, q.phase = .idle ∧ q.fresh = false
      ∧ engineSteps Config.hash n (launch (encode i) s) = mapNext (fun t => t.setSeq q) (exec i s)

/-- 70_reset_and_hazards.md rule R520: every running command completes after finitely many clock cycles, whatever the
latencies of its steps. -/
def Obligations.EveryRunningCommandCompletes : Prop :=
  ∀ s : State, s.inv = true → frontierOk s = true → s.inputs = [] →
    ∃ n t, Host.Core.run Sys2Proof.core n s = .next t ∧ t.status.busy = false

/-- 20_memory.md rule R120, 70_reset_and_hazards.md rule R520: a CMD write followed by idle clock cycles ends in the state
the command's meaning gives, whatever the latencies, but for the sequencing registers and the latency counters. -/
def Obligations.ClockedRunReachesTheCommandsResult : Prop :=
  ∀ (s : State) (i : Instr), s.inv = true → s.status.busy = false →
    s.inputs = [.cycle false (some (.wr cmdOffset (encode i)))] →
    ∃ n t u, Host.Core.run Sys2Proof.core n s = .next t ∧ t.status.busy = false ∧ exec i (s.setInputs []) = .next u
      ∧ t = { u with seq := t.seq, stall := t.stall, tick := t.tick }
end

