-- ==== Sys2Proof/Laws/State.lean ====
section
/-! SUPPORT. One lemma per field of State for each named update of it (Machine/Ops.lean, Machine/Construct.lean,
Machine/Port.lean, Safety.lean): what the field is after the update. All hold by definition. -/

namespace Sys2Proof.Machine

/-! ### setCells -/

@[simp] theorem setCells_params (s : State) (m : Memory) : (s.setCells m).params = s.params := rfl
@[simp] theorem setCells_status (s : State) (m : Memory) : (s.setCells m).status = s.status := rfl
@[simp] theorem setCells_doneIE (s : State) (m : Memory) : (s.setCells m).doneIE = s.doneIE := rfl
@[simp] theorem setCells_opa (s : State) (m : Memory) : (s.setCells m).opa = s.opa := rfl
@[simp] theorem setCells_opb (s : State) (m : Memory) : (s.setCells m).opb = s.opb := rfl
@[simp] theorem setCells_cfgSize (s : State) (m : Memory) : (s.setCells m).cfgSize = s.cfgSize := rfl
@[simp] theorem setCells_cfgSeed (s : State) (m : Memory) : (s.setCells m).cfgSeed = s.cfgSeed := rfl
@[simp] theorem setCells_cfgL (s : State) (m : Memory) : (s.setCells m).cfgL = s.cfgL := rfl
@[simp] theorem setCells_cfgDelta (s : State) (m : Memory) : (s.setCells m).cfgDelta = s.cfgDelta := rfl
@[simp] theorem setCells_errDetail (s : State) (m : Memory) : (s.setCells m).errDetail = s.errDetail := rfl
@[simp] theorem setCells_act (s : State) (m : Memory) : (s.setCells m).act = s.act := rfl
@[simp] theorem setCells_cells (s : State) (m : Memory) : (s.setCells m).cells = m := rfl
@[simp] theorem setCells_latch (s : State) (m : Memory) : (s.setCells m).latch = s.latch := rfl
@[simp] theorem setCells_seq (s : State) (m : Memory) : (s.setCells m).seq = s.seq := rfl
@[simp] theorem setCells_inputs (s : State) (m : Memory) : (s.setCells m).inputs = s.inputs := rfl
@[simp] theorem setCells_rdata (s : State) (m : Memory) : (s.setCells m).rdata = s.rdata := rfl
@[simp] theorem setCells_stall (s : State) (m : Memory) : (s.setCells m).stall = s.stall := rfl
@[simp] theorem setCells_tick (s : State) (m : Memory) : (s.setCells m).tick = s.tick := rfl
@[simp] theorem setCells_resets (s : State) (m : Memory) : (s.setCells m).resets = s.resets := rfl

/-! ### setSeq -/

@[simp] theorem setSeq_params (s : State) (q : Sequencer) : (s.setSeq q).params = s.params := rfl
@[simp] theorem setSeq_status (s : State) (q : Sequencer) : (s.setSeq q).status = s.status := rfl
@[simp] theorem setSeq_doneIE (s : State) (q : Sequencer) : (s.setSeq q).doneIE = s.doneIE := rfl
@[simp] theorem setSeq_opa (s : State) (q : Sequencer) : (s.setSeq q).opa = s.opa := rfl
@[simp] theorem setSeq_opb (s : State) (q : Sequencer) : (s.setSeq q).opb = s.opb := rfl
@[simp] theorem setSeq_cfgSize (s : State) (q : Sequencer) : (s.setSeq q).cfgSize = s.cfgSize := rfl
@[simp] theorem setSeq_cfgSeed (s : State) (q : Sequencer) : (s.setSeq q).cfgSeed = s.cfgSeed := rfl
@[simp] theorem setSeq_cfgL (s : State) (q : Sequencer) : (s.setSeq q).cfgL = s.cfgL := rfl
@[simp] theorem setSeq_cfgDelta (s : State) (q : Sequencer) : (s.setSeq q).cfgDelta = s.cfgDelta := rfl
@[simp] theorem setSeq_errDetail (s : State) (q : Sequencer) : (s.setSeq q).errDetail = s.errDetail := rfl
@[simp] theorem setSeq_act (s : State) (q : Sequencer) : (s.setSeq q).act = s.act := rfl
@[simp] theorem setSeq_cells (s : State) (q : Sequencer) : (s.setSeq q).cells = s.cells := rfl
@[simp] theorem setSeq_latch (s : State) (q : Sequencer) : (s.setSeq q).latch = s.latch := rfl
@[simp] theorem setSeq_seq (s : State) (q : Sequencer) : (s.setSeq q).seq = q := rfl
@[simp] theorem setSeq_inputs (s : State) (q : Sequencer) : (s.setSeq q).inputs = s.inputs := rfl
@[simp] theorem setSeq_rdata (s : State) (q : Sequencer) : (s.setSeq q).rdata = s.rdata := rfl
@[simp] theorem setSeq_stall (s : State) (q : Sequencer) : (s.setSeq q).stall = s.stall := rfl
@[simp] theorem setSeq_tick (s : State) (q : Sequencer) : (s.setSeq q).tick = s.tick := rfl
@[simp] theorem setSeq_resets (s : State) (q : Sequencer) : (s.setSeq q).resets = s.resets := rfl

/-! ### setInputs -/

@[simp] theorem setInputs_params (s : State) (l : List HostOp) : (s.setInputs l).params = s.params := rfl
@[simp] theorem setInputs_status (s : State) (l : List HostOp) : (s.setInputs l).status = s.status := rfl
@[simp] theorem setInputs_doneIE (s : State) (l : List HostOp) : (s.setInputs l).doneIE = s.doneIE := rfl
@[simp] theorem setInputs_opa (s : State) (l : List HostOp) : (s.setInputs l).opa = s.opa := rfl
@[simp] theorem setInputs_opb (s : State) (l : List HostOp) : (s.setInputs l).opb = s.opb := rfl
@[simp] theorem setInputs_cfgSize (s : State) (l : List HostOp) : (s.setInputs l).cfgSize = s.cfgSize := rfl
@[simp] theorem setInputs_cfgSeed (s : State) (l : List HostOp) : (s.setInputs l).cfgSeed = s.cfgSeed := rfl
@[simp] theorem setInputs_cfgL (s : State) (l : List HostOp) : (s.setInputs l).cfgL = s.cfgL := rfl
@[simp] theorem setInputs_cfgDelta (s : State) (l : List HostOp) : (s.setInputs l).cfgDelta = s.cfgDelta := rfl
@[simp] theorem setInputs_errDetail (s : State) (l : List HostOp) : (s.setInputs l).errDetail = s.errDetail := rfl
@[simp] theorem setInputs_act (s : State) (l : List HostOp) : (s.setInputs l).act = s.act := rfl
@[simp] theorem setInputs_cells (s : State) (l : List HostOp) : (s.setInputs l).cells = s.cells := rfl
@[simp] theorem setInputs_latch (s : State) (l : List HostOp) : (s.setInputs l).latch = s.latch := rfl
@[simp] theorem setInputs_seq (s : State) (l : List HostOp) : (s.setInputs l).seq = s.seq := rfl
@[simp] theorem setInputs_inputs (s : State) (l : List HostOp) : (s.setInputs l).inputs = l := rfl
@[simp] theorem setInputs_rdata (s : State) (l : List HostOp) : (s.setInputs l).rdata = s.rdata := rfl
@[simp] theorem setInputs_stall (s : State) (l : List HostOp) : (s.setInputs l).stall = s.stall := rfl
@[simp] theorem setInputs_tick (s : State) (l : List HostOp) : (s.setInputs l).tick = s.tick := rfl
@[simp] theorem setInputs_resets (s : State) (l : List HostOp) : (s.setInputs l).resets = s.resets := rfl

/-! ### setRdata -/

@[simp] theorem setRdata_params (s : State) (v : Word) : (s.setRdata v).params = s.params := rfl
@[simp] theorem setRdata_status (s : State) (v : Word) : (s.setRdata v).status = s.status := rfl
@[simp] theorem setRdata_doneIE (s : State) (v : Word) : (s.setRdata v).doneIE = s.doneIE := rfl
@[simp] theorem setRdata_opa (s : State) (v : Word) : (s.setRdata v).opa = s.opa := rfl
@[simp] theorem setRdata_opb (s : State) (v : Word) : (s.setRdata v).opb = s.opb := rfl
@[simp] theorem setRdata_cfgSize (s : State) (v : Word) : (s.setRdata v).cfgSize = s.cfgSize := rfl
@[simp] theorem setRdata_cfgSeed (s : State) (v : Word) : (s.setRdata v).cfgSeed = s.cfgSeed := rfl
@[simp] theorem setRdata_cfgL (s : State) (v : Word) : (s.setRdata v).cfgL = s.cfgL := rfl
@[simp] theorem setRdata_cfgDelta (s : State) (v : Word) : (s.setRdata v).cfgDelta = s.cfgDelta := rfl
@[simp] theorem setRdata_errDetail (s : State) (v : Word) : (s.setRdata v).errDetail = s.errDetail := rfl
@[simp] theorem setRdata_act (s : State) (v : Word) : (s.setRdata v).act = s.act := rfl
@[simp] theorem setRdata_cells (s : State) (v : Word) : (s.setRdata v).cells = s.cells := rfl
@[simp] theorem setRdata_latch (s : State) (v : Word) : (s.setRdata v).latch = s.latch := rfl
@[simp] theorem setRdata_seq (s : State) (v : Word) : (s.setRdata v).seq = s.seq := rfl
@[simp] theorem setRdata_inputs (s : State) (v : Word) : (s.setRdata v).inputs = s.inputs := rfl
@[simp] theorem setRdata_rdata (s : State) (v : Word) : (s.setRdata v).rdata = v := rfl
@[simp] theorem setRdata_stall (s : State) (v : Word) : (s.setRdata v).stall = s.stall := rfl
@[simp] theorem setRdata_tick (s : State) (v : Word) : (s.setRdata v).tick = s.tick := rfl
@[simp] theorem setRdata_resets (s : State) (v : Word) : (s.setRdata v).resets = s.resets := rfl

/-! ### drawLatency -/

@[simp] theorem drawLatency_params (s : State) : (s.drawLatency).params = s.params := rfl
@[simp] theorem drawLatency_status (s : State) : (s.drawLatency).status = s.status := rfl
@[simp] theorem drawLatency_doneIE (s : State) : (s.drawLatency).doneIE = s.doneIE := rfl
@[simp] theorem drawLatency_opa (s : State) : (s.drawLatency).opa = s.opa := rfl
@[simp] theorem drawLatency_opb (s : State) : (s.drawLatency).opb = s.opb := rfl
@[simp] theorem drawLatency_cfgSize (s : State) : (s.drawLatency).cfgSize = s.cfgSize := rfl
@[simp] theorem drawLatency_cfgSeed (s : State) : (s.drawLatency).cfgSeed = s.cfgSeed := rfl
@[simp] theorem drawLatency_cfgL (s : State) : (s.drawLatency).cfgL = s.cfgL := rfl
@[simp] theorem drawLatency_cfgDelta (s : State) : (s.drawLatency).cfgDelta = s.cfgDelta := rfl
@[simp] theorem drawLatency_errDetail (s : State) : (s.drawLatency).errDetail = s.errDetail := rfl
@[simp] theorem drawLatency_act (s : State) : (s.drawLatency).act = s.act := rfl
@[simp] theorem drawLatency_cells (s : State) : (s.drawLatency).cells = s.cells := rfl
@[simp] theorem drawLatency_latch (s : State) : (s.drawLatency).latch = s.latch := rfl
@[simp] theorem drawLatency_seq (s : State) : (s.drawLatency).seq = s.seq := rfl
@[simp] theorem drawLatency_inputs (s : State) : (s.drawLatency).inputs = s.inputs := rfl
@[simp] theorem drawLatency_rdata (s : State) : (s.drawLatency).rdata = s.rdata := rfl
@[simp] theorem drawLatency_stall (s : State) : (s.drawLatency).stall = Config.stallCycles s.tick := rfl
@[simp] theorem drawLatency_tick (s : State) : (s.drawLatency).tick = s.tick + 1 := rfl
@[simp] theorem drawLatency_resets (s : State) : (s.drawLatency).resets = s.resets := rfl

/-! ### pollStatus -/

@[simp] theorem pollStatus_params (s : State) : (pollStatus s).params = s.params := rfl
@[simp] theorem pollStatus_status (s : State) : (pollStatus s).status = s.status := rfl
@[simp] theorem pollStatus_doneIE (s : State) : (pollStatus s).doneIE = s.doneIE := rfl
@[simp] theorem pollStatus_opa (s : State) : (pollStatus s).opa = s.opa := rfl
@[simp] theorem pollStatus_opb (s : State) : (pollStatus s).opb = s.opb := rfl
@[simp] theorem pollStatus_cfgSize (s : State) : (pollStatus s).cfgSize = s.cfgSize := rfl
@[simp] theorem pollStatus_cfgSeed (s : State) : (pollStatus s).cfgSeed = s.cfgSeed := rfl
@[simp] theorem pollStatus_cfgL (s : State) : (pollStatus s).cfgL = s.cfgL := rfl
@[simp] theorem pollStatus_cfgDelta (s : State) : (pollStatus s).cfgDelta = s.cfgDelta := rfl
@[simp] theorem pollStatus_errDetail (s : State) : (pollStatus s).errDetail = s.errDetail := rfl
@[simp] theorem pollStatus_act (s : State) : (pollStatus s).act = s.act := rfl
@[simp] theorem pollStatus_cells (s : State) : (pollStatus s).cells = s.cells := rfl
@[simp] theorem pollStatus_latch (s : State) : (pollStatus s).latch = s.latch := rfl
@[simp] theorem pollStatus_seq (s : State) : (pollStatus s).seq = s.seq := rfl
@[simp] theorem pollStatus_inputs (s : State) : (pollStatus s).inputs = s.inputs := rfl
@[simp] theorem pollStatus_rdata (s : State) : (pollStatus s).rdata = statusWord s.status := rfl
@[simp] theorem pollStatus_stall (s : State) : (pollStatus s).stall = s.stall := rfl
@[simp] theorem pollStatus_tick (s : State) : (pollStatus s).tick = s.tick := rfl
@[simp] theorem pollStatus_resets (s : State) : (pollStatus s).resets = s.resets := rfl

/-! ### launch -/

@[simp] theorem launch_params (s : State) (v : Word) : (launch v s).params = s.params := rfl
@[simp] theorem launch_status (s : State) (v : Word) :
    (launch v s).status
      = { s.status with busy := true, done := false, result := false, err := false, errCode := 0 } := rfl
@[simp] theorem launch_doneIE (s : State) (v : Word) : (launch v s).doneIE = s.doneIE := rfl
@[simp] theorem launch_opa (s : State) (v : Word) : (launch v s).opa = s.opa := rfl
@[simp] theorem launch_opb (s : State) (v : Word) : (launch v s).opb = s.opb := rfl
@[simp] theorem launch_cfgSize (s : State) (v : Word) : (launch v s).cfgSize = s.cfgSize := rfl
@[simp] theorem launch_cfgSeed (s : State) (v : Word) : (launch v s).cfgSeed = s.cfgSeed := rfl
@[simp] theorem launch_cfgL (s : State) (v : Word) : (launch v s).cfgL = s.cfgL := rfl
@[simp] theorem launch_cfgDelta (s : State) (v : Word) : (launch v s).cfgDelta = s.cfgDelta := rfl
@[simp] theorem launch_errDetail (s : State) (v : Word) : (launch v s).errDetail = 0 := rfl
@[simp] theorem launch_act (s : State) (v : Word) : (launch v s).act = s.act := rfl
@[simp] theorem launch_cells (s : State) (v : Word) : (launch v s).cells = s.cells := rfl
@[simp] theorem launch_latch (s : State) (v : Word) :
    (launch v s).latch
      = ⟨v, s.opa, s.opb, s.cfgSize, s.cfgSeed, s.cfgL, s.cfgDelta⟩ := rfl
@[simp] theorem launch_seq (s : State) (v : Word) :
    (launch v s).seq = { s.seq with phase := launchPhase v s, fresh := true } := rfl
@[simp] theorem launch_inputs (s : State) (v : Word) : (launch v s).inputs = s.inputs := rfl
@[simp] theorem launch_rdata (s : State) (v : Word) : (launch v s).rdata = s.rdata := rfl
@[simp] theorem launch_stall (s : State) (v : Word) : (launch v s).stall = s.stall := rfl
@[simp] theorem launch_tick (s : State) (v : Word) : (launch v s).tick = s.tick := rfl
@[simp] theorem launch_resets (s : State) (v : Word) : (launch v s).resets = s.resets := rfl

/-! ### complete -/

@[simp] theorem complete_params (s : State) (r : Bool) : (complete r s).params = s.params := rfl
@[simp] theorem complete_status (s : State) (r : Bool) :
    (complete r s).status
      = ⟨false, true, r, false, s.status.cfgValid, s.status.ovr, 0, s.latch.curOp.extractLsb' 0 4⟩ := rfl
@[simp] theorem complete_doneIE (s : State) (r : Bool) : (complete r s).doneIE = s.doneIE := rfl
@[simp] theorem complete_opa (s : State) (r : Bool) : (complete r s).opa = s.opa := rfl
@[simp] theorem complete_opb (s : State) (r : Bool) : (complete r s).opb = s.opb := rfl
@[simp] theorem complete_cfgSize (s : State) (r : Bool) : (complete r s).cfgSize = s.cfgSize := rfl
@[simp] theorem complete_cfgSeed (s : State) (r : Bool) : (complete r s).cfgSeed = s.cfgSeed := rfl
@[simp] theorem complete_cfgL (s : State) (r : Bool) : (complete r s).cfgL = s.cfgL := rfl
@[simp] theorem complete_cfgDelta (s : State) (r : Bool) : (complete r s).cfgDelta = s.cfgDelta := rfl
@[simp] theorem complete_errDetail (s : State) (r : Bool) : (complete r s).errDetail = s.errDetail := rfl
@[simp] theorem complete_act (s : State) (r : Bool) : (complete r s).act = s.act := rfl
@[simp] theorem complete_cells (s : State) (r : Bool) : (complete r s).cells = s.cells := rfl
@[simp] theorem complete_latch (s : State) (r : Bool) : (complete r s).latch = s.latch := rfl
@[simp] theorem complete_seq (s : State) (r : Bool) :
    (complete r s).seq = { s.seq with phase := .idle, fresh := false } := rfl
@[simp] theorem complete_inputs (s : State) (r : Bool) : (complete r s).inputs = s.inputs := rfl
@[simp] theorem complete_rdata (s : State) (r : Bool) : (complete r s).rdata = s.rdata := rfl
@[simp] theorem complete_stall (s : State) (r : Bool) : (complete r s).stall = s.stall := rfl
@[simp] theorem complete_tick (s : State) (r : Bool) : (complete r s).tick = s.tick := rfl
@[simp] theorem complete_resets (s : State) (r : Bool) : (complete r s).resets = s.resets := rfl

/-! ### raiseError -/

@[simp] theorem raiseError_params (s : State) (e : ErrorCode) (det : Word) :
    (raiseError e det s).params
      = s.params := rfl
@[simp] theorem raiseError_status (s : State) (e : ErrorCode) (det : Word) :
    (raiseError e det s).status
      = ⟨false, true, false, true, s.status.cfgValid, s.status.ovr, errorNumber e, s.latch.curOp.extractLsb' 0 4⟩ := rfl
@[simp] theorem raiseError_doneIE (s : State) (e : ErrorCode) (det : Word) :
    (raiseError e det s).doneIE
      = s.doneIE := rfl
@[simp] theorem raiseError_opa (s : State) (e : ErrorCode) (det : Word) : (raiseError e det s).opa = s.opa := rfl
@[simp] theorem raiseError_opb (s : State) (e : ErrorCode) (det : Word) : (raiseError e det s).opb = s.opb := rfl
@[simp] theorem raiseError_cfgSize (s : State) (e : ErrorCode) (det : Word) :
    (raiseError e det s).cfgSize
      = s.cfgSize := rfl
@[simp] theorem raiseError_cfgSeed (s : State) (e : ErrorCode) (det : Word) :
    (raiseError e det s).cfgSeed
      = s.cfgSeed := rfl
@[simp] theorem raiseError_cfgL (s : State) (e : ErrorCode) (det : Word) : (raiseError e det s).cfgL = s.cfgL := rfl
@[simp] theorem raiseError_cfgDelta (s : State) (e : ErrorCode) (det : Word) :
    (raiseError e det s).cfgDelta
      = s.cfgDelta := rfl
@[simp] theorem raiseError_errDetail (s : State) (e : ErrorCode) (det : Word) :
    (raiseError e det s).errDetail
      = det := rfl
@[simp] theorem raiseError_act (s : State) (e : ErrorCode) (det : Word) : (raiseError e det s).act = s.act := rfl
@[simp] theorem raiseError_cells (s : State) (e : ErrorCode) (det : Word) : (raiseError e det s).cells = s.cells := rfl
@[simp] theorem raiseError_latch (s : State) (e : ErrorCode) (det : Word) : (raiseError e det s).latch = s.latch := rfl
@[simp] theorem raiseError_seq (s : State) (e : ErrorCode) (det : Word) :
    (raiseError e det s).seq
      = { s.seq with phase := .idle, fresh := false } := rfl
@[simp] theorem raiseError_inputs (s : State) (e : ErrorCode) (det : Word) :
    (raiseError e det s).inputs
      = s.inputs := rfl
@[simp] theorem raiseError_rdata (s : State) (e : ErrorCode) (det : Word) : (raiseError e det s).rdata = s.rdata := rfl
@[simp] theorem raiseError_stall (s : State) (e : ErrorCode) (det : Word) : (raiseError e det s).stall = s.stall := rfl
@[simp] theorem raiseError_tick (s : State) (e : ErrorCode) (det : Word) : (raiseError e det s).tick = s.tick := rfl
@[simp] theorem raiseError_resets (s : State) (e : ErrorCode) (det : Word) :
    (raiseError e det s).resets
      = s.resets := rfl

/-! ### commit -/

@[simp] theorem commit_params (s : State) : (commit s).params = s.params := rfl
@[simp] theorem commit_status (s : State) : (commit s).status = { s.status with cfgValid := true } := rfl
@[simp] theorem commit_doneIE (s : State) : (commit s).doneIE = s.doneIE := rfl
@[simp] theorem commit_opa (s : State) : (commit s).opa = s.opa := rfl
@[simp] theorem commit_opb (s : State) : (commit s).opb = s.opb := rfl
@[simp] theorem commit_cfgSize (s : State) : (commit s).cfgSize = s.cfgSize := rfl
@[simp] theorem commit_cfgSeed (s : State) : (commit s).cfgSeed = s.cfgSeed := rfl
@[simp] theorem commit_cfgL (s : State) : (commit s).cfgL = s.cfgL := rfl
@[simp] theorem commit_cfgDelta (s : State) : (commit s).cfgDelta = s.cfgDelta := rfl
@[simp] theorem commit_errDetail (s : State) : (commit s).errDetail = s.errDetail := rfl
@[simp] theorem commit_act (s : State) :
    (commit s).act
      = commitActive s.params (latchedCells s) s.latch.seed s.latch.l s.latch.delta s.act := rfl
@[simp] theorem commit_cells (s : State) : (commit s).cells = s.cells := rfl
@[simp] theorem commit_latch (s : State) : (commit s).latch = s.latch := rfl
@[simp] theorem commit_seq (s : State) : (commit s).seq = s.seq := rfl
@[simp] theorem commit_inputs (s : State) : (commit s).inputs = s.inputs := rfl
@[simp] theorem commit_rdata (s : State) : (commit s).rdata = s.rdata := rfl
@[simp] theorem commit_stall (s : State) : (commit s).stall = s.stall := rfl
@[simp] theorem commit_tick (s : State) : (commit s).tick = s.tick := rfl
@[simp] theorem commit_resets (s : State) : (commit s).resets = s.resets := rfl

/-! ### withOvr -/

@[simp] theorem withOvr_params (s : State) : (withOvr s).params = s.params := rfl
@[simp] theorem withOvr_status (s : State) : (withOvr s).status = { s.status with ovr := true } := rfl
@[simp] theorem withOvr_doneIE (s : State) : (withOvr s).doneIE = s.doneIE := rfl
@[simp] theorem withOvr_opa (s : State) : (withOvr s).opa = s.opa := rfl
@[simp] theorem withOvr_opb (s : State) : (withOvr s).opb = s.opb := rfl
@[simp] theorem withOvr_cfgSize (s : State) : (withOvr s).cfgSize = s.cfgSize := rfl
@[simp] theorem withOvr_cfgSeed (s : State) : (withOvr s).cfgSeed = s.cfgSeed := rfl
@[simp] theorem withOvr_cfgL (s : State) : (withOvr s).cfgL = s.cfgL := rfl
@[simp] theorem withOvr_cfgDelta (s : State) : (withOvr s).cfgDelta = s.cfgDelta := rfl
@[simp] theorem withOvr_errDetail (s : State) : (withOvr s).errDetail = s.errDetail := rfl
@[simp] theorem withOvr_act (s : State) : (withOvr s).act = s.act := rfl
@[simp] theorem withOvr_cells (s : State) : (withOvr s).cells = s.cells := rfl
@[simp] theorem withOvr_latch (s : State) : (withOvr s).latch = s.latch := rfl
@[simp] theorem withOvr_seq (s : State) : (withOvr s).seq = s.seq := rfl
@[simp] theorem withOvr_inputs (s : State) : (withOvr s).inputs = s.inputs := rfl
@[simp] theorem withOvr_rdata (s : State) : (withOvr s).rdata = s.rdata := rfl
@[simp] theorem withOvr_stall (s : State) : (withOvr s).stall = s.stall := rfl
@[simp] theorem withOvr_tick (s : State) : (withOvr s).tick = s.tick := rfl
@[simp] theorem withOvr_resets (s : State) : (withOvr s).resets = s.resets := rfl

/-! ### withOperands -/

@[simp] theorem withOperands_params (s : State) (a b : Word) : (withOperands s a b).params = s.params := rfl
@[simp] theorem withOperands_status (s : State) (a b : Word) : (withOperands s a b).status = s.status := rfl
@[simp] theorem withOperands_doneIE (s : State) (a b : Word) : (withOperands s a b).doneIE = s.doneIE := rfl
@[simp] theorem withOperands_opa (s : State) (a b : Word) : (withOperands s a b).opa = a := rfl
@[simp] theorem withOperands_opb (s : State) (a b : Word) : (withOperands s a b).opb = b := rfl
@[simp] theorem withOperands_cfgSize (s : State) (a b : Word) : (withOperands s a b).cfgSize = s.cfgSize := rfl
@[simp] theorem withOperands_cfgSeed (s : State) (a b : Word) : (withOperands s a b).cfgSeed = s.cfgSeed := rfl
@[simp] theorem withOperands_cfgL (s : State) (a b : Word) : (withOperands s a b).cfgL = s.cfgL := rfl
@[simp] theorem withOperands_cfgDelta (s : State) (a b : Word) : (withOperands s a b).cfgDelta = s.cfgDelta := rfl
@[simp] theorem withOperands_errDetail (s : State) (a b : Word) : (withOperands s a b).errDetail = s.errDetail := rfl
@[simp] theorem withOperands_act (s : State) (a b : Word) : (withOperands s a b).act = s.act := rfl
@[simp] theorem withOperands_cells (s : State) (a b : Word) : (withOperands s a b).cells = s.cells := rfl
@[simp] theorem withOperands_latch (s : State) (a b : Word) : (withOperands s a b).latch = s.latch := rfl
@[simp] theorem withOperands_seq (s : State) (a b : Word) : (withOperands s a b).seq = s.seq := rfl
@[simp] theorem withOperands_inputs (s : State) (a b : Word) : (withOperands s a b).inputs = s.inputs := rfl
@[simp] theorem withOperands_rdata (s : State) (a b : Word) : (withOperands s a b).rdata = s.rdata := rfl
@[simp] theorem withOperands_stall (s : State) (a b : Word) : (withOperands s a b).stall = s.stall := rfl
@[simp] theorem withOperands_tick (s : State) (a b : Word) : (withOperands s a b).tick = s.tick := rfl
@[simp] theorem withOperands_resets (s : State) (a b : Word) : (withOperands s a b).resets = s.resets := rfl

/-! ### the datapath of a state -/

@[simp] theorem geom_hash (h : HashFn) (s : State) : (s.geom h).hash = h := rfl
@[simp] theorem geom_params (h : HashFn) (s : State) : (s.geom h).params = s.params := rfl
@[simp] theorem geom_act (h : HashFn) (s : State) : (s.geom h).act = s.act := rfl
@[simp] theorem geom_setCells (h : HashFn) (s : State) (m : Memory) : (s.setCells m).geom h = s.geom h := rfl
@[simp] theorem geom_setSeq (h : HashFn) (s : State) (q : Sequencer) : (s.setSeq q).geom h = s.geom h := rfl
@[simp] theorem geom_setInputs (h : HashFn) (s : State) (l : List HostOp) : (s.setInputs l).geom h = s.geom h := rfl
@[simp] theorem geom_launch (h : HashFn) (s : State) (v : Word) : (launch v s).geom h = s.geom h := rfl
@[simp] theorem geom_withOperands (h : HashFn) (s : State) (a b : Word) : (withOperands s a b).geom h = s.geom h := rfl
@[simp] theorem geom_withOvr (h : HashFn) (s : State) : (withOvr s).geom h = s.geom h := rfl

/-- What the datapath reads of a configuration does not depend on the hash. -/
@[simp] theorem plainGeom_layers (g : Geom) : (plainGeom g.params g.act).layers = g.layers := rfl
@[simp] theorem plainGeom_delta (g : Geom) (i : Nat) : (plainGeom g.params g.act).delta i = g.delta i := rfl
@[simp] theorem plainGeom_shift (g : Geom) (i : Nat) : (plainGeom g.params g.act).shift i = g.shift i := rfl
@[simp] theorem plainGeom_wordCount (g : Geom) (i : Nat) : (plainGeom g.params g.act).wordCount i = g.wordCount i := rfl

/-! ### outcomes -/

@[simp] theorem mapNext_next (f : State → State) (s : State) : mapNext f (.next s) = .next (f s) := rfl
@[simp] theorem mapNext_fault (f : State → State) (r : Fault) : mapNext f (.fault r) = .fault r := rfl
@[simp] theorem mapNext_refused (f : State → State) (r : Refusal) : mapNext f (.refused r) = .refused r := rfl
@[simp] theorem nextState?_next (s : State) : nextState? (.next s) = some s := rfl

/-- A mapped outcome is a next state exactly when the outcome is one. -/
theorem mapNext_eq_next {f : State → State} {o : Host.Outcome State Fault Refusal} {t : State} :
    mapNext f o = .next t ↔ ∃ u, o = .next u ∧ f u = t := by
  cases o <;> simp

end Sys2Proof.Machine
end

