-- ==== Sys2Proof/Laws/Memory.lean ====
section
/-! SUPPORT. The cell memory: read after write, frames, and that every operation keeps the canonical form. -/

namespace Sys2Proof.Machine

@[simp] theorem read_nil (c : Nat) : Memory.read [] c = 0 := rfl

/-- A cell below every listed one is not listed. -/
theorem read_of_lt {m : Memory} {c : Nat} (h : ∀ e ∈ m, c < e.1) : Memory.read m c = 0 := by
  induction m with
  | nil => rfl
  | cons e m ih =>
    obtain ⟨a, v⟩ := e
    have ha : c < a := h (a, v) (by simp)
    simp only [Memory.read]
    rw [if_neg (by omega)]
    exact ih fun e he => h e (by simp [he])

/-- A write leaves every other cell as it was. -/
theorem read_write_ne (m : Memory) {c d : Nat} (v : CellWord) (h : d ≠ c) :
    Memory.read (Memory.write m c v) d = Memory.read m d := by
  have h' : c ≠ d := Ne.symm h
  induction m with
  | nil =>
    simp only [Memory.write]
    split <;> simp [Memory.read, h', cellDefault]
  | cons e m ih =>
    obtain ⟨a, w⟩ := e
    simp only [Memory.write]
    split_ifs <;> simp_all [Memory.read]

/-- A read of a cell just written gives the value, where the value is listed. -/
theorem read_write_self_of_ne (m : Memory) (c : Nat) {v : CellWord} (h : v ≠ 0) :
    Memory.read (Memory.write m c v) c = v := by
  have h' : v ≠ cellDefault := h
  induction m with
  | nil => simp [Memory.write, Memory.read, h']
  | cons e m ih =>
    obtain ⟨a, w⟩ := e
    simp only [Memory.write, if_neg h']
    split_ifs with h1 h2
    · simp [Memory.read]
    · simp [Memory.read]
    · rw [Memory.read, if_neg (fun e => h2 e.symm)]
      exact ih

/-- Rising cell indices, the first half of the canonical form. -/
def Memory.Rising (m : Memory) : Prop := m.Pairwise fun a b => a.1 < b.1

theorem Memory.Rising.tail {e : Nat × CellWord} {m : Memory} (h : Memory.Rising (e :: m)) : Memory.Rising m :=
  (List.pairwise_cons.mp h).2

/-- A read of a cell just written gives the value, in a memory of rising indices. -/
theorem read_write_self {m : Memory} (hm : Memory.Rising m) (c : Nat) (v : CellWord) :
    Memory.read (Memory.write m c v) c = v := by
  by_cases hv : v = 0
  · have hd : v = cellDefault := hv
    rw [hv]
    rw [hv] at hd
    induction m with
    | nil => rfl
    | cons e m ih =>
      obtain ⟨a, w⟩ := e
      have hlt : ∀ e ∈ m, a < e.1 := (List.pairwise_cons.mp hm).1
      simp only [Memory.write, if_pos hd]
      split_ifs with h1 h2
      · exact read_of_lt fun e he => by
          rcases List.mem_cons.mp he with rfl | he
          · exact h1
          · exact lt_trans h1 (hlt e he)
      · exact read_of_lt fun e he => h2 ▸ hlt e he
      · rw [Memory.read, if_neg (fun e => h2 e.symm)]
        exact ih hm.tail
  · exact read_write_self_of_ne m c hv

/-- What a write lists: the old entries but the written cell's, and the written cell unless it is 0. -/
theorem mem_write {m : Memory} {c : Nat} {v : CellWord} {e : Nat × CellWord} (h : e ∈ Memory.write m c v) :
    e ∈ m ∨ (e = (c, v) ∧ v ≠ 0) := by
  induction m with
  | nil =>
    simp only [Memory.write] at h
    split_ifs at h with hv
    · simp at h
    · exact .inr ⟨by simpa using h, hv⟩
  | cons a m ih =>
    obtain ⟨a, w⟩ := a
    simp only [Memory.write] at h
    split_ifs at h with h1 h2 h3 h4
    · exact .inl h
    · rcases List.mem_cons.mp h with rfl | h
      · exact .inr ⟨rfl, h2⟩
      · exact .inl h
    · exact .inl (by simp [h])
    · rcases List.mem_cons.mp h with rfl | h
      · exact .inr ⟨rfl, h4⟩
      · exact .inl (by simp [h])
    · rcases List.mem_cons.mp h with rfl | h
      · exact .inl (by simp)
      · rcases ih h with h | h
        · exact .inl (by simp [h])
        · exact .inr h

/-- A write keeps the indices rising. -/
theorem rising_write {m : Memory} (hm : Memory.Rising m) (c : Nat) (v : CellWord) :
    Memory.Rising (Memory.write m c v) := by
  induction m with
  | nil => simp only [Memory.write]; split <;> simp [Memory.Rising]
  | cons e m ih =>
    obtain ⟨a, w⟩ := e
    have hlt : ∀ e ∈ m, a < e.1 := (List.pairwise_cons.mp hm).1
    simp only [Memory.write]
    split_ifs with h1 h2 h3 h4
    · exact hm
    · refine List.pairwise_cons.mpr ⟨fun e he => ?_, hm⟩
      rcases List.mem_cons.mp he with rfl | he
      · exact h1
      · exact lt_trans h1 (hlt e he)
    · exact hm.tail
    · exact List.pairwise_cons.mpr ⟨fun e he => h3 ▸ hlt e he, hm.tail⟩
    · refine List.pairwise_cons.mpr ⟨fun e he => ?_, ih hm.tail⟩
      rcases mem_write he with he | ⟨rfl, -⟩
      · exact hlt e he
      · show a < c; omega

/-- The canonical form in words. -/
theorem wf_iff (p : Params) (m : Memory) :
    Memory.wf p m = true ↔
      Memory.Rising m ∧ ∀ e ∈ m, e.1 < p.nMax ∧ e.2 ≠ 0 ∧ e.2.toNat < 2 ^ p.cellB.bits := by
  have h0 : ∀ v : CellWord, v ≠ cellDefault ↔ v ≠ 0 := fun _ => Iff.rfl
  simp only [Memory.wf, Memory.Rising, Bool.and_eq_true, List.all_eq_true, decide_eq_true_eq, and_assoc, h0]

/-- The memory after power-on lists nothing and is canonical. -/
@[simp] theorem wf_nil (p : Params) : Memory.wf p [] = true := by simp [wf_iff, Memory.Rising]

/-- A write of a B-bit value to a physical cell keeps the canonical form. -/
theorem wf_write {p : Params} {m : Memory} (hm : Memory.wf p m = true) {c : Nat} {v : CellWord} (hc : c < p.nMax)
    (hv : v.toNat < 2 ^ p.cellB.bits) : Memory.wf p (Memory.write m c v) = true := by
  rw [wf_iff] at hm ⊢
  refine ⟨rising_write hm.1 c v, fun e he => ?_⟩
  rcases mem_write he with he | ⟨rfl, h0⟩
  · exact hm.2 e he
  · exact ⟨hc, h0, hv⟩

/-- Clearing cells keeps the canonical form. -/
theorem wf_clearCells {p : Params} {m : Memory} (hm : Memory.wf p m = true) {n : Nat} (hn : n ≤ p.nMax) :
    Memory.wf p (clearCells n m) = true := by
  unfold clearCells
  induction n with
  | zero => simpa using hm
  | succ n ih =>
    rw [List.range_succ, List.foldl_append]
    exact wf_write (ih (by omega)) (by omega) (by simp)

/-- The value a canonical memory reads is B bits wide. -/
theorem read_lt {p : Params} {m : Memory} (hm : Memory.wf p m = true) (c : Nat) :
    (Memory.read m c).toNat < 2 ^ p.cellB.bits := by
  rw [wf_iff] at hm
  obtain ⟨-, hm⟩ := hm
  induction m with
  | nil => simp
  | cons e m ih =>
    obtain ⟨a, w⟩ := e
    simp only [Memory.read]
    split_ifs
    · exact (hm (a, w) (by simp)).2.2
    · exact ih fun e he => hm e (by simp [he])

/-- The memory a reset leaves is canonical. -/
theorem wf_cellsAfterReset (p : Params) (k : Nat) : Memory.wf p (cellsAfterReset p k) = true := by
  rw [wf_iff]
  constructor
  · unfold Memory.Rising cellsAfterReset
    rw [List.pairwise_filterMap]
    refine List.pairwise_lt_range.imp ?_
    intro a b hab x hx y hy
    simp only [Option.ite_none_left_eq_some, Option.some.injEq] at hx hy
    rw [← hx.2, ← hy.2]
    exact hab
  · intro e he
    simp only [cellsAfterReset, List.mem_filterMap, List.mem_range, Option.ite_none_left_eq_some,
      Option.some.injEq] at he
    obtain ⟨c, hc, h0, rfl⟩ := he
    refine ⟨hc, h0, ?_⟩
    have hmask : (rangeMask 0 (p.cellB.bits - 1)).toNat < 2 ^ p.cellB.bits := by
      cases p.cellB <;> decide
    exact lt_of_le_of_lt (by rw [BitVec.toNat_and]; exact Nat.and_le_right) hmask

/-- The memory of the reset state is canonical. -/
theorem wf_reset (p : Params) : Memory.wf p (State.resetOf p).cells = true := wf_nil p

end Sys2Proof.Machine
end

