-- ==== Sys2Proof/Laws/Ops.lean ====
section
/-! SUPPORT. One lemma per shared operation that says what it can do, so that a proof cites it and does not unfold it:
the comparison of 40_config.md rule R207, the preconditions, the outcomes of the meanings, SETBIT, and the legal
configuration. -/

namespace Sys2Proof.Machine

/-! ### Numbers and masks -/

/-- `wordOver` is the comparison of 40_config.md rule R207, with x below 2^(δ − 1). -/
theorem wordOver_iff (d x : Nat) : wordOver d x = true ↔ x < 2 ^ (d - 1) := by
  unfold wordOver
  rcases Nat.eq_zero_or_pos x with rfl | hx
  · simp
  · have h0 : x ≠ 0 := by omega
    simp [h0, Nat.log2_lt h0]

/-- The single bit of a position mask (20_memory.md rule R106). -/
theorem bitMask_getLsbD {j : Nat} (hj : j < 128) (k : Nat) : (bitMask j).getLsbD k = decide (k = j) := by
  unfold bitMask
  rw [BitVec.getLsbD_ofNat, Nat.one_shiftLeft, Nat.testBit_two_pow]
  by_cases h : k = j
  · simp [h, hj]
  · simp [h, Ne.symm h]

/-- A position mask is not 0. -/
theorem bitMask_ne_zero {j : Nat} (hj : j < 128) : bitMask j ≠ 0 := by
  intro h
  have := bitMask_getLsbD hj j
  rw [h] at this
  simp at this

/-- The bits of a range mask (20_memory.md rule R106). -/
theorem rangeMask_getLsbD {j1 j2 : Nat} (h : j1 ≤ j2) (h2 : j2 < 128) (k : Nat) :
    (rangeMask j1 j2).getLsbD k = decide (j1 ≤ k ∧ k ≤ j2) := by
  unfold rangeMask ones
  rw [BitVec.getLsbD_ofNat, Nat.testBit_shiftLeft, Nat.testBit_two_pow_sub_one]
  by_cases h1 : j1 ≤ k <;> by_cases h3 : k ≤ j2 <;> simp [h1, h3] <;> omega

/-- The cell width is one of three numbers (00_scope.md rule R7). -/
theorem cellBits_bounds (p : Params) : 32 ≤ p.cellB.bits ∧ p.cellB.bits ≤ 128 := by
  cases p.cellB <;> decide

/-- The key width is one of three numbers (00_scope.md rule R6). -/
theorem keyBits_bounds (p : Params) : 16 ≤ p.keyW.bits ∧ p.keyW.bits ≤ 64 := by
  cases p.keyW <;> decide

/-! ### The preconditions -/

/-- 42_point.md rule R300: when ADD and CONTAINS run. -/
theorem pointError_none_iff (s : State) :
    pointError s = none ↔ s.status.cfgValid = true ∧ keyFits s.params s.latch.keyA = true := by
  unfold pointError
  split_ifs <;> simp_all

/-- 43_range.md rules R350, R351: when OVERLAPS runs. -/
theorem rangeError_none_iff (s : State) :
    rangeError s = none ↔ s.status.cfgValid = true ∧ keyFits s.params s.latch.keyA = true
      ∧ keyFits s.params s.latch.keyB = true ∧ queryLo s ≤ queryHi s := by
  unfold rangeError
  split_ifs <;> simp_all

/-- The W-bit key of an operand that fits is the operand (30_encoding.md rule R152). -/
theorem keyOf_of_fits {p : Params} {v : Word} (h : keyFits p v = true) : keyOf p v = v.toNat :=
  Nat.mod_eq_of_lt (of_decide_eq_true h)

/-- A key is a W-bit value. -/
theorem keyOf_lt (p : Params) (v : Word) : keyOf p v < 2 ^ p.keyW.bits := Nat.mod_lt _ (by positivity)

/-! ### PHASE at a launch -/

/-- A command's first phase is not IDLE (10_state.md rule R76). -/
theorem firstPhase_ne_idle (i : Instr) : firstPhase i ≠ .idle := by cases i <;> decide

/-- The five phases with BUSY = 1 are not IDLE (10_state.md rule R76). -/
theorem busyPhase_ne_idle (k : Fin 5) : busyPhase k ≠ .idle := by revert k; decide

/-- PHASE after a launch is not IDLE, whatever the word (10_state.md rule R76). -/
theorem launchPhase_ne_idle (v : Word) (s : State) : launchPhase v s ≠ .idle := by
  unfold launchPhase
  split
  · exact firstPhase_ne_idle _
  · exact busyPhase_ne_idle _

/-- PHASE after the launch of a command's word is its first phase (60_exceptions.md rule R452). -/
theorem launchPhase_of_command {v : Word} {i : Instr} (h : decode v = .command i) (s : State) :
    launchPhase v s = firstPhase i := by
  unfold launchPhase
  rw [h]

/-! ### What the meanings answer -/

/-- CONFIG always answers (60_exceptions.md rule R456): an error, or the new filter. -/
theorem runConfig_cases (s : State) :
    (validateLatch s ≠ 0 ∧ runConfig s = raiseError .invalidParams (validateLatch s) s)
      ∨ (validateLatch s = 0
        ∧ runConfig s = complete false (commit (s.setCells (clearCells (latchedCells s) s.cells)))) := by
  unfold runConfig
  split_ifs with h
  · exact .inl ⟨h, rfl⟩
  · exact .inr ⟨not_not.mp h, rfl⟩

/-- Where ADD answers, it has raised its first error, or set the bits and completed. -/
theorem runAdd_next {h : HashFn} {s t : State} (ht : runAdd h s = .next t) :
    (∃ e, pointError s = some e ∧ t = raiseError e 0 s)
      ∨ (pointError s = none ∧ (s.geom h).addressable = true
        ∧ t = complete false (s.setCells ((s.geom h).addKey s.cells (pointKey s)))) := by
  unfold runAdd at ht
  split at ht
  · exact .inl ⟨_, ‹_›, by simpa using ht.symm⟩
  · split at ht
    · exact .inr ⟨‹_›, ‹_›, by simpa using ht.symm⟩
    · cases ht

/-- Where CONTAINS answers, it has raised its first error, or completed with its result. -/
theorem runContains_next {h : HashFn} {s t : State} (ht : runContains h s = .next t) :
    (∃ e, pointError s = some e ∧ t = raiseError e 0 s)
      ∨ (pointError s = none ∧ (s.geom h).addressable = true
        ∧ t = complete ((s.geom h).containsKey s.cells (pointKey s)) s) := by
  unfold runContains at ht
  split at ht
  · exact .inl ⟨_, ‹_›, by simpa using ht.symm⟩
  · split at ht
    · exact .inr ⟨‹_›, ‹_›, by simpa using ht.symm⟩
    · cases ht

/-- Where OVERLAPS answers, it has raised its first error, or completed with the reference result. -/
theorem runOverlaps_next {h : HashFn} {s t : State} (ht : runOverlaps h s = .next t) :
    (∃ e, rangeError s = some e ∧ t = raiseError e 0 s)
      ∨ (rangeError s = none ∧ (s.geom h).addressable = true
        ∧ t = complete ((s.geom h).overlapsRef s.cells (queryLo s) (queryHi s)) s) := by
  unfold runOverlaps at ht
  split at ht
  · exact .inl ⟨_, ‹_›, by simpa using ht.symm⟩
  · split at ht
    · exact .inr ⟨‹_›, ‹_›, by simpa using ht.symm⟩
    · cases ht

/-! ### LOCATE, SETBIT and BITPROBE -/

/-- The mask of LOCATE is one bit of the cell (41_hash_locate.md rule R263). -/
theorem locate_position_lt (g : Geom) (i k : Nat) : g.bitIndex i k % g.cellBits < 128 := by
  have h := cellBits_bounds g.params
  have h' : g.bitIndex i k % g.cellBits < g.cellBits := Nat.mod_lt _ (by unfold Geom.cellBits; omega)
  unfold Geom.cellBits at *
  omega

/-- SETBIT sets the located bit and leaves every other bit of every cell (41_hash_locate.md rule R265). -/
theorem bit_setBit (g : Geom) (m : Memory) (i k c j : Nat) :
    Memory.bit (g.setBit m i k) c j =
      (Memory.bit m c j || (decide (c = (g.locate i k).1) && (g.locate i k).2.getLsbD j)) := by
  unfold Memory.bit Geom.setBit
  by_cases hc : c = (g.locate i k).1
  · subst hc
    have hm : (g.locate i k).2 ≠ 0 := bitMask_ne_zero (locate_position_lt g i k)
    have hv : Memory.read m (g.locate i k).1 ||| (g.locate i k).2 ≠ 0 := by
      intro h
      exact hm (BitVec.or_eq_zero_iff.mp h).2
    rw [read_write_self_of_ne m _ hv]
    simp
  · rw [read_write_ne m _ hc]
    simp [hc]

/-- BITPROBE reads the located bit (41_hash_locate.md rule R264). -/
theorem bitProbe_eq_bit (g : Geom) (m : Memory) (i k : Nat) :
    g.bitProbe m i k = Memory.bit m (g.locate i k).1 (g.bitIndex i k % g.cellBits) := by
  have hj := locate_position_lt g i k
  have h : (Memory.read m (g.locate i k).1 &&& (g.locate i k).2 ≠ 0)
      ↔ Memory.bit m (g.locate i k).1 (g.bitIndex i k % g.cellBits) = true := by
    constructor
    · intro hne
      by_contra hb
      refine hne (BitVec.eq_of_getLsbD_eq fun n _ => ?_)
      show (_ &&& bitMask _).getLsbD n = _
      rw [BitVec.getLsbD_and, bitMask_getLsbD hj]
      by_cases hn : n = g.bitIndex i k % g.cellBits
      · subst hn
        simpa [Memory.bit] using hb
      · simp [hn]
    · intro hb h0
      have h1 := congrArg (fun v => BitVec.getLsbD v (g.bitIndex i k % g.cellBits)) h0
      have h2 : (g.locate i k).2 = bitMask (g.bitIndex i k % g.cellBits) := rfl
      simp only [BitVec.getLsbD_and, h2, bitMask_getLsbD hj] at h1
      unfold Memory.bit at hb
      simp [hb] at h1
  unfold Geom.bitProbe
  by_cases hb : Memory.bit m (g.locate i k).1 (g.bitIndex i k % g.cellBits) = true
  · rw [hb, decide_eq_true (h.mpr hb)]
  · rw [Bool.not_eq_true] at hb
    rw [hb]
    exact decide_eq_false (by rw [h, hb]; simp)

/-! ### The configuration and the invariant, clause by clause -/

/-- The clauses of 10_state.md rule R72. -/
theorem legalConfig_iff (p : Params) (a : Active) :
    legalConfig p a = true ↔
      1 ≤ (plainGeom p a).layers ∧ (plainGeom p a).layers ≤ p.lMax ∧ 1 ≤ a.n ∧ a.n ≤ p.nMax
        ∧ (∀ i, i < (plainGeom p a).layers → 1 ≤ (plainGeom p a).delta i ∧ 1 ≤ (plainGeom p a).wordCount i
            ∧ (plainGeom p a).shift (i + 1) = (plainGeom p a).shift i + (plainGeom p a).delta i)
        ∧ (plainGeom p a).shift 0 = 0 ∧ (plainGeom p a).shift (plainGeom p a).layers ≤ p.keyW.bits
        ∧ a.seed2 = secondSeed a.seed := by
  simp only [legalConfig, Bool.and_eq_true, decide_eq_true_eq, List.all_eq_true, List.mem_range, and_assoc]

/-- A legal configuration names existing cells only (20_memory.md rule R104), under every hash. -/
theorem addressable_of_legalConfig {g : Geom} (h : legalConfig g.params g.act = true) : g.addressable = true := by
  rw [legalConfig_iff] at h
  unfold Geom.addressable
  rw [Bool.and_eq_true, decide_eq_true_eq, List.all_eq_true]
  exact ⟨h.2.2.2.1, fun i hi => decide_eq_true (h.2.2.2.2.1 i (List.mem_range.mp hi)).2.1⟩

/-- The clauses of the invariant. -/
theorem inv_iff (s : State) :
    s.inv = true ↔
      s.params.wf = true ∧ shapeOk s = true ∧ (s.status.busy = true ↔ s.seq.phase ≠ .idle)
        ∧ Memory.wf s.params s.cells = true
        ∧ (s.status.cfgValid = true → legalConfig s.params s.act = true)
        ∧ statusOk s = true ∧ phaseOk s = true := by
  have hb : (s.status.busy == decide (s.seq.phase ≠ .idle)) = true ↔ (s.status.busy = true ↔ s.seq.phase ≠ .idle) := by
    rw [beq_iff_eq, Bool.eq_iff_iff, decide_eq_true_eq]
  have hc : (!s.status.cfgValid || legalConfig s.params s.act) = true
      ↔ (s.status.cfgValid = true → legalConfig s.params s.act = true) := by
    cases s.status.cfgValid <;> simp
  unfold State.inv
  simp only [Bool.and_eq_true, hb, hc, and_assoc]

/-- The clauses of the register files' sizes. -/
theorem shapeOk_iff (s : State) :
    shapeOk s = true ↔ s.cfgDelta.length = s.params.lMax ∧ s.latch.delta.length = s.params.lMax
      ∧ s.act.delta.length = s.params.lMax ∧ s.act.shift.length = s.params.lMax + 1 := by
  simp only [shapeOk, Bool.and_eq_true, decide_eq_true_eq, and_assoc]

end Sys2Proof.Machine
end

