-- ==== Sys2Proof/Laws/PerInstr.lean ====
section
/-! SUPPORT. What holds of every command as syntax: its word is legal and decodes to it (30_encoding.md rules R150, R153). -/

namespace Sys2Proof.Laws.Encoding

/-- The command's word is a legal one, has the OPCODE of the table and no reserved bit, and the decoder reads the command
from it. -/
def Statement (i : Instr) : Prop :=
  i.wf = true ∧ CommandWord.wf (encode i) = true ∧ decode (encode i) = .command i
    ∧ decodeTableWord 64 (encode i).toNat = some i ∧ rsvdField (encode i) = 0

theorem config : Statement .config := by unfold Statement; decide

theorem add : Statement .add := by unfold Statement; decide

theorem contains : Statement .contains := by unfold Statement; decide

theorem overlaps : Statement .overlaps := by unfold Statement; decide

end Sys2Proof.Laws.Encoding
end

