-- ==== Sys2Proof/Laws/Step.lean ====
section
/-! SUPPORT. What one phase step, one clock cycle and one step of the machine can do, said once. -/

namespace Sys2Proof.Machine

/-- What no phase step writes: the host's registers, the latch, the latency counters, and OVR. -/
structure EngineKeeps (s t : State) : Prop where
  host : HostRegsKept s t
  latch : t.latch = s.latch
  stall : t.stall = s.stall
  tick : t.tick = s.tick
  ovr : t.status.ovr = s.status.ovr

theorem EngineKeeps.refl (s : State) : EngineKeeps s s := ⟨by simp [HostRegsKept], rfl, rfl, rfl, rfl⟩

theorem engineKeeps_setSeq (s : State) (q : Sequencer) : EngineKeeps s (s.setSeq q) :=
  ⟨by simp [HostRegsKept], rfl, rfl, rfl, rfl⟩

theorem engineKeeps_raiseError (e : ErrorCode) (d : Word) (s : State) : EngineKeeps s (raiseError e d s) :=
  ⟨by simp [HostRegsKept, raiseError], rfl, rfl, rfl, rfl⟩

theorem engineKeeps_complete (r : Bool) (s : State) : EngineKeeps s (complete r s) :=
  ⟨by simp [HostRegsKept, complete], rfl, rfl, rfl, rfl⟩

theorem EngineKeeps.trans {s t u : State} (h : EngineKeeps s t) (k : EngineKeeps t u) : EngineKeeps s u where
  host := by
    obtain ⟨h1, h2, h3, h4, h5, h6, h7, h8, h9, h10, h11⟩ := h.host
    obtain ⟨k1, k2, k3, k4, k5, k6, k7, k8, k9, k10, k11⟩ := k.host
    exact ⟨k1.trans h1, k2.trans h2, k3.trans h3, k4.trans h4, k5.trans h5, k6.trans h6, k7.trans h7,
      k8.trans h8, k9.trans h9, k10.trans h10, k11.trans h11⟩
  latch := k.latch.trans h.latch
  stall := k.stall.trans h.stall
  tick := k.tick.trans h.tick
  ovr := k.ovr.trans h.ovr

theorem engineKeeps_setCells (s : State) (m : Memory) : EngineKeeps s (s.setCells m) :=
  ⟨by simp [HostRegsKept], rfl, rfl, rfl, rfl⟩

theorem engineKeeps_commit (s : State) : EngineKeeps s (commit s) :=
  ⟨by simp [HostRegsKept, commit], rfl, rfl, rfl, rfl⟩

theorem engineKeeps_startStep (h : HashFn) (s : State) : EngineKeeps s (startStep h s) := by
  unfold startStep startConfig startPoint startRange
  repeat' split
  all_goals first
    | exact engineKeeps_raiseError _ _ _
    | exact engineKeeps_setSeq _ _

theorem engineKeeps_cfgZeroStep (s : State) : EngineKeeps s (cfgZeroStep s) := by
  unfold cfgZeroStep
  dsimp only
  refine (engineKeeps_setCells s (if s.seq.zidx < latchedCells s then Memory.write s.cells s.seq.zidx 0 else s.cells)).trans ?_
  generalize s.setCells (if s.seq.zidx < latchedCells s then Memory.write s.cells s.seq.zidx 0 else s.cells) = u
  split
  · exact engineKeeps_setSeq _ _
  · exact (engineKeeps_commit _).trans (engineKeeps_complete _ _)

theorem engineKeeps_nextLayer (g : Geom) (r : Bool) (s : State) : EngineKeeps s (nextLayer g r s) := by
  unfold nextLayer
  split
  · exact engineKeeps_complete _ _
  · exact engineKeeps_setSeq _ _

/-- The first step after launch (60_exceptions.md rule R456). -/
theorem engineStepWith_of_fresh {s : State} (hf : s.seq.fresh = true) (h : HashFn) :
    engineStepWith h s = .next (startStep h s) := if_pos hf

/-- Every later step is the one of the PHASE (10_state.md rule R76). -/
theorem engineStepWith_of_not_fresh {s : State} (hf : s.seq.fresh = false) (h : HashFn) :
    engineStepWith h s = phaseStep h s := if_neg (by simp [hf])

/-- A step of the PHASE that answers keeps what `EngineKeeps` lists. -/
theorem engineKeeps_phaseStep {h : HashFn} {s t : State} (ht : phaseStep h s = .next t) : EngineKeeps s t := by
  unfold phaseStep at ht
  split at ht
  · obtain rfl : s = t := by simpa using ht
    exact .refl s
  · obtain rfl : cfgZeroStep s = t := by simpa using ht
    exact engineKeeps_cfgZeroStep s
  · unfold ptLayerStep addLayer containsLayer at ht
    split_ifs at ht
    · obtain rfl := Host.Outcome.next.inj ht
      exact (engineKeeps_setCells s _).trans (engineKeeps_nextLayer _ _ _)
    · obtain rfl := Host.Outcome.next.inj ht
      exact engineKeeps_nextLayer _ _ _
    · obtain rfl := Host.Outcome.next.inj ht
      exact engineKeeps_complete _ _
  · obtain rfl : rqSegStep s = t := by simpa using ht
    unfold rqSegStep
    split <;> exact engineKeeps_setSeq _ _
  · unfold rqItemStep at ht
    dsimp only at ht
    unfold coveringItem containedItem at ht
    split_ifs at ht
    · obtain rfl := Host.Outcome.next.inj ht
      exact engineKeeps_setSeq _ _
    · split at ht
      · obtain rfl := Host.Outcome.next.inj ht
        exact engineKeeps_setSeq _ _
      · cases ht
    · obtain rfl := Host.Outcome.next.inj ht
      exact engineKeeps_setSeq _ _
    · obtain rfl := Host.Outcome.next.inj ht
      exact engineKeeps_complete _ _
    · obtain rfl := Host.Outcome.next.inj ht
      exact engineKeeps_setSeq _ _
  · obtain rfl : rqSwapStep s = t := by simpa using ht
    unfold rqSwapStep
    split
    · exact engineKeeps_complete _ _
    · exact engineKeeps_setSeq _ _

/-- A phase step that answers keeps what `EngineKeeps` lists. -/
theorem engineKeeps_step {h : HashFn} {s t : State} (ht : engineStepWith h s = .next t) : EngineKeeps s t := by
  unfold engineStepWith at ht
  split at ht
  · obtain rfl := Host.Outcome.next.inj ht
    exact engineKeeps_startStep h s
  · exact engineKeeps_phaseStep ht

/-- What a clock cycle with rst = 0 can do: the host's access alone, the access and a stall cycle, or the access, a phase
step and a new latency. -/
theorem clockCycle_next {acc : Option Access} {s t : State} (ht : clockCycle acc s = .next t) :
    (s.status.busy = false ∧ t = applyAccess s acc)
      ∨ (s.status.busy = true ∧ (applyAccess s acc).stall ≠ 0
        ∧ t = { applyAccess s acc with stall := (applyAccess s acc).stall - 1 })
      ∨ (s.status.busy = true ∧ (applyAccess s acc).stall = 0
        ∧ ∃ u, engineStep (applyAccess s acc) = .next u ∧ t = u.drawLatency) := by
  unfold clockCycle engineCycle at ht
  split_ifs at ht with hb h0
  · obtain ⟨u, hu, rfl⟩ := mapNext_eq_next.mp ht
    exact .inr (.inr ⟨hb, h0, u, hu, rfl⟩)
  · exact .inr (.inl ⟨hb, h0, (Host.Outcome.next.inj ht).symm⟩)
  · exact .inl ⟨by simpa using hb, (Host.Outcome.next.inj ht).symm⟩

/-- What a step can do, by the host operation it takes (log 8). -/
theorem step_next {s t : State} (ht : step s = .next t) :
    (s.inputs = [] ∧ clockCycle none s = .next t)
      ∨ (∃ acc rest, s.inputs = .cycle false acc :: rest ∧ clockCycle acc (s.setInputs rest) = .next t)
      ∨ (∃ acc rest, s.inputs = .cycle true acc :: rest ∧ t = resetCycle acc (s.setInputs rest))
      ∨ (∃ rest, s.inputs = .wait :: rest ∧ s.status.busy = true
        ∧ clockCycle (some (.rd statusOffset)) s = .next t)
      ∨ (∃ rest, s.inputs = .wait :: rest ∧ s.status.busy = false
        ∧ clockCycle (some (.rd statusOffset)) (s.setInputs rest) = .next t)
      ∨ (∃ v rest, s.inputs = .issue v :: rest ∧ s.status.busy = true
        ∧ clockCycle (some (.wr cmdOffset v)) (s.setInputs (.wait :: rest)) = .next t)
      ∨ (∃ v rest i u, s.inputs = .issue v :: rest ∧ s.status.busy = false ∧ decode v = .command i
        ∧ exec i (s.setInputs rest) = .next u ∧ t = pollStatus u)
      ∨ (∃ v rest why, s.inputs = .issue v :: rest ∧ s.status.busy = false ∧ decode v = .illegal why
        ∧ t = pollStatus (runIllegal v (s.setInputs rest))) := by
  unfold step at ht
  split at ht
  · exact .inl ⟨‹_›, ht⟩
  · exact .inr (.inl ⟨_, _, ‹_›, ht⟩)
  · exact .inr (.inr (.inl ⟨_, _, ‹_›, (Host.Outcome.next.inj ht).symm⟩))
  · split_ifs at ht with hb
    · exact .inr (.inr (.inr (.inl ⟨_, ‹_›, hb, ht⟩)))
    · exact .inr (.inr (.inr (.inr (.inl ⟨_, ‹_›, by simpa using hb, ht⟩))))
  · split_ifs at ht with hb
    · exact .inr (.inr (.inr (.inr (.inr (.inl ⟨_, _, ‹_›, hb, ht⟩)))))
    · split at ht
      · obtain ⟨u, hu, rfl⟩ := mapNext_eq_next.mp ht
        exact .inr (.inr (.inr (.inr (.inr (.inr (.inl ⟨_, _, _, u, ‹_›, by simpa using hb, ‹_›, hu, rfl⟩))))))
      · exact .inr (.inr (.inr (.inr (.inr (.inr (.inr
          ⟨_, _, _, ‹_›, by simpa using hb, ‹_›, (Host.Outcome.next.inj ht).symm⟩))))))

end Sys2Proof.Machine
end

