-- ==== Sys2Proof/Tests/Slice0.lean ====
section
/-! SUPPORT. The model's own tests: ill-formed terms are refused, words written out from the encoding table decode, a few
vectors of 95_test_vectors.md, and for every statement with hypotheses a concrete state that meets them. -/

namespace Sys2Proof.Tests

open Sys2Proof.Machine

/-! ### Helpers -/

/-- Instance I16 of 95_test_vectors.md section 0.3. -/
def i16 : Params := ⟨.w16, .b32, 4096, 16⟩

/-- The active configuration T1 of 95_test_vectors.md section 0.5: N = 4, seed 0, δ = [7, 2], s = [0, 7, 9]. -/
def t1Active : Active :=
  ⟨4, 0, 0x0CFA45A6, 2, [7, 2] ++ List.replicate 14 0, [0, 7, 9] ++ List.replicate 14 0⟩

/-- An idle engine of instance I16 with configuration T1, CONFIG completed, and no cell set. -/
def t1 : State :=
  { State.resetOf i16 with
    status := ⟨false, true, false, false, true, false, 0, 1⟩
    act := t1Active }

/-- A state with other CFG_ registers. -/
def withConfig (s : State) (size seed l : Word) (d : List Word) : State :=
  { s with cfgSize := size, cfgSeed := seed, cfgL := l, cfgDelta := d ++ List.replicate (s.params.lMax - d.length) 0 }

/-- A state with other host operations still to come. -/
def withInputs (s : State) (l : List HostOp) : State := s.setInputs l

/-- The test hash H_T of 95_test_vectors.md section 0.2. -/
def hT : HashFn := fun bytes seed =>
  BitVec.ofNat 64 (bytes.foldr (fun b acc => b.toNat + 256 * acc) 0) + seed

/-- STATUS, ERRDETAIL and ACT_N as the host reads them, of an outcome. -/
def seen (o : Host.Outcome State Fault Refusal) : Option (Word × Word × Word) :=
  (nextState? o).map fun t => (readReg t .status, readReg t .errDetail, readReg t .actN)

/-- The cells of an outcome. -/
def cellsOf (o : Host.Outcome State Fault Refusal) : Option Memory := (nextState? o).map State.cells

/-- T1 with a launched command `v`. -/
def t1Launched (v a b : Word) : State := launch v (withOperands t1 a b)

/-- T1 while OVERLAPS 5, 300 runs, just after RQ_START. -/
def t1Ranging : State := startRange hT (t1Launched 4 5 300)

/-! ### WellFormed: each check refuses an ill-formed term -/

theorem test_wf_no_cells : Params.wf ⟨.w16, .b32, 0, 16⟩ = false := by decide

theorem test_wf_no_layers : Params.wf ⟨.w16, .b32, 4, 0⟩ = false := by decide

theorem test_wf_too_many_layers : Params.wf ⟨.w16, .b32, 4, 17⟩ = false := by decide

theorem test_wf_reference : Params.wf Params.reference = true ∧ Params.wf i16 = true := by decide

theorem test_wf_word_reserved_bit : CommandWord.wf 0x0000000000000014 = false := by decide

theorem test_wf_word_opcode_zero : CommandWord.wf 0x0000000000000000 = false := by decide

theorem test_wf_word_opcode_five : CommandWord.wf 0x0000000000000005 = false := by decide

/-! ### Decode: the words of 30_encoding.md rule R153, OPCODE in bits 3 to 0, RSVD = 0 in bits 63 to 4 -/

theorem test_decode_config : decode 0b0001 = .command .config := by decide

theorem test_decode_add : decode 0b0010 = .command .add := by decide

theorem test_decode_contains : decode 0b0011 = .command .contains := by decide

theorem test_decode_overlaps : decode 0b0100 = .command .overlaps := by decide

/-- 30_encoding.md rule R155: each bit of RSVD alone makes a word illegal. -/
theorem test_decode_every_reserved_bit : ∀ k : Fin 60,
    decode (0x1 ||| (1 : Word) <<< (k.val + 4)) = .illegal .reservedBits := by decide

theorem test_decode_table_word : decodeTableWord 64 0x4 = some .overlaps ∧ decodeTableWord 64 0x14 = none
    ∧ decodeTableWord 64 0x0 = none ∧ decodeTableWord 64 0x5 = none := by decide

/-! ### Vectors of 95_test_vectors.md -/

/-- CF4: CONFIG 16, 0, [7, 2] on I16 gives STATUS 0x1012, ERRDETAIL 0, ACT_N 4. -/
theorem test_config_t1 :
    seen (exec .config (withConfig (State.resetOf i16) 16 0 2 [7, 2])) = some (0x1012, 0, 4) := by decide

/-- CF19: CONFIG 0, 0, [0] on I16 reports bits 0 and 3. -/
theorem test_config_two_errors :
    seen (exec .config (withConfig (State.resetOf i16) 0 0 1 [0])) = some (0x110A, 0x9, 0) := by decide

/-- L2.3, T1 under H_T: ADD 0x1234 leaves [0x0040_0000, 0x0010_0000, 0, 0]. -/
theorem test_add_t1 :
    cellsOf (runAdd hT (t1Launched 2 0x1234 0)) = some [(0, 0x00400000), (1, 0x00100000)] := by decide

/-- T1: ADD 0x10000 is KEY_WIDTH, STATUS 0x251A. -/
theorem test_add_key_width : seen (exec .add (withOperands t1 0x10000 0)) = some (0x251A, 0, 4) := by decide

/-- T1 under H_T with 0x1234 added: CONTAINS 0x1234 gives 0x3016. -/
theorem test_contains_t1 :
    seen (runContains hT ((t1Launched 3 0x1234 0).setCells [(0, 0x00400000), (1, 0x00100000)]))
      = some (0x3016, 0, 4) := by decide

/-- T1 under H_T, empty: CONTAINS 0x1234 gives 0x3012. -/
theorem test_contains_empty : seen (runContains hT (t1Launched 3 0x1234 0)) = some (0x3012, 0, 4) := by decide

/-- L2.4.4 (90_conflicts.md C3), T1 under H_T with 0x0005 added: OVERLAPS 5, 5 gives 0x4016. -/
theorem test_overlaps_t1 :
    seen (runOverlaps hT ((t1Launched 4 5 5).setCells [(0, 0x20), (2, 0x4000)])) = some (0x4016, 0, 4) := by
  decide

/-- T1: OVERLAPS 5, 4 is RANGE_ORDER, STATUS 0x441A. -/
theorem test_overlaps_order : seen (exec .overlaps (withOperands t1 5 4)) = some (0x441A, 0, 4) := by decide

/-! ### The first command after reset, as the host asks for it -/

/-- 30_encoding.md rule R155 and 42_point.md rule R300: from reset ADD is NOT_CONFIGURED, STATUS 0x220A. -/
theorem test_first_add : (nextState? (step (State.reset.withFetchWord 64 2))).map State.rdata = some 0x220A := by
  decide

/-! ### Witnesses: every statement with hypotheses has a state that meets them -/

theorem witness_t1_sound : t1.inv = true ∧ frontierOk t1 = true := by decide

theorem witness_StepRunsTheDecodedCommand :
    (withInputs t1 [.issue 2]).inputs = .issue 2 :: [] ∧ (withInputs t1 [.issue 2]).status.busy = false
      ∧ decode 2 = .command .add := by decide

theorem witness_IllegalWordEndsInError :
    (withInputs t1 [.issue 0x14]).inputs = .issue 0x14 :: [] ∧ (withInputs t1 [.issue 0x14]).status.busy = false
      ∧ decode 0x14 = .illegal .reservedBits ∧ decode 5 = .illegal .noSuchOpcode := by decide

theorem witness_WaitPollsStatusUntilIdle :
    (withInputs t1 [.wait]).inputs = .wait :: [] ∧ (withInputs t1 [.wait]).status.busy = false
      ∧ (withInputs (t1Launched 2 0 0) [.wait]).inputs = .wait :: []
      ∧ (withInputs (t1Launched 2 0 0) [.wait]).status.busy = true := by decide

/-- Offsets at the ends of each clause: misaligned, the gap, the end of the space; the last of each mapped range. -/
theorem witness_UnmappedOffsets :
    ((0x059 : Offset).toNat % 8 ≠ 0 ∧ regAt i16 0x059 = none)
      ∧ ((0x060 : Offset).toNat = 0x060 ∧ regAt i16 0x060 = none) ∧ regAt i16 0x0F8 = none
      ∧ (0x100 + 8 * i16.lMax ≤ (0x180 : Offset).toNat ∧ regAt i16 0x180 = none) ∧ regAt i16 0xFF8 = none
      ∧ regAt i16 0x000 = some .id ∧ regAt i16 0x058 = some .actN ∧ regAt i16 0x100 = some (.cfgDelta 0)
      ∧ regAt i16 0x178 = some (.cfgDelta 15) ∧ (0x020 : Offset) ≠ cmdOffset ∧ (0x020 : Offset) ≠ statusOffset := by
  decide

theorem witness_ReadsReturnWhatWritesKept :
    t1.cfgDelta.length = t1.params.lMax ∧ 0 < t1.params.lMax ∧ 15 < t1.params.lMax ∧ 15 < 480 := by decide

theorem witness_ConstantRegisters :
    t1.params.wf = true ∧ t1.status.cfgValid = true ∧ State.reset.params.wf = true
      ∧ State.reset.status.cfgValid = false := by decide

theorem witness_Irq : rstNow t1 = false ∧ rstNow (withInputs t1 [.cycle true none]) = true := by decide

theorem witness_IrqRisesAndFalls :
    rstNow t1 = false ∧ t1.status.done = true ∧ (0x2 : Word).getLsbD 1 = true
      ∧ (t1Launched 2 0 0).status.busy = true ∧ rstNow (t1Launched 2 0 0) = false := by decide

theorem witness_CmdWrite : t1.status.busy = false ∧ (t1Launched 2 0 0).status.busy = true := by decide

theorem witness_StagedWrites :
    (t1Launched 2 0 0).status.busy = true ∧ (0x028 : Offset) ≠ cmdOffset ∧ (0x028 : Offset) ≠ statusOffset := by
  decide

theorem witness_ResetCycle :
    (withInputs (t1Launched 2 0 0) [.cycle true (some (.rd statusOffset)), .wait]).inputs
      = .cycle true (some (.rd statusOffset)) :: [.wait] := by decide

theorem witness_ResetStateIsSound : Params.wf i16 = true ∧ Params.wf ⟨.w32, .b128, 1, 1⟩ = true := by decide

/-- OVERLAPS 5, 300 running, at the end of its only segment. -/
def t1EndOfSegment : State :=
  t1Ranging.setSeq { t1Ranging.seq with phase := .rqSeg, cursor := t1Ranging.seq.seg0.shi + 1 }

/-- Idle, just launched, and with OVERLAPS running: sound states whose step answers. -/
theorem witness_StepKeepsTheInvariant :
    (t1.inv = true ∧ frontierOk t1 = true ∧ ∃ t, step t1 = .next t)
      ∧ ((t1Launched 4 5 300).inv = true ∧ frontierOk (t1Launched 4 5 300) = true
        ∧ ∃ t, step (t1Launched 4 5 300) = .next t)
      ∧ (t1EndOfSegment.inv = true ∧ frontierOk t1EndOfSegment = true ∧ ∃ t, step t1EndOfSegment = .next t) :=
  ⟨⟨by decide, by decide, _, rfl⟩, ⟨by decide, by decide, _, rfl⟩,
    ⟨by decide, by decide, _, rfl⟩⟩

/-- OVERLAPS 5, 300 at its first check: the first frontier, 43_range.md rule R393. -/
theorem witness_StepKeepsTheFrontier : t1Ranging.inv = true ∧ frontierOk t1Ranging = true
    ∧ t1Ranging.seq.phase = .rqItem ∧ t1Ranging.seq.seg0 = ⟨true, 0, 383⟩ := by decide

theorem witness_StepNeverStops : t1.inv = true ∧ frontierOk t1 = true ∧ t1Ranging.inv = true
    ∧ frontierOk t1Ranging = true := by decide

/-! #### CONFIG -/

/-- One operand set for each bit of ERRDETAIL, each at the boundary of its check (CF6 to CF23 in kind). -/
theorem witness_ErrDetail :
    (1 :: List.replicate 15 (0 : Word)).length = i16.lMax
      ∧ (validate i16 0 1 (1 :: List.replicate 15 0)).getLsbD 0 = true
      ∧ (validate i16 4 0 (List.replicate 16 0)).getLsbD 1 = true
      ∧ (validate i16 4 17 (List.replicate 16 1)).getLsbD 2 = true
      ∧ (validate i16 4 2 ([1, 0] ++ List.replicate 14 0)).getLsbD 3 = true
      ∧ (validate i16 4 2 ([1, 16] ++ List.replicate 14 0)).getLsbD 4 = true
      ∧ (validate i16 16385 1 (1 :: List.replicate 15 0)).getLsbD 5 = true
      ∧ (validate i16 4 1 (7 :: List.replicate 15 0)).getLsbD 6 = true
      ∧ validate i16 4 1 (6 :: List.replicate 15 0) = 0 ∧ validate i16 16384 16 (List.replicate 16 1) = 0 := by
  decide

/-- CF4, and L at L_MAX with every width 1. -/
theorem witness_ConfigMakesTheFilter :
    let s := withConfig (State.resetOf i16) 16 0 2 [7, 2]
    let u := withConfig (State.resetOf i16) 16384 0 16 (List.replicate 16 1)
    (s.params.wf = true ∧ s.cfgDelta.length = s.params.lMax ∧ Memory.wf s.params s.cells = true
        ∧ validate s.params s.cfgSize s.cfgL s.cfgDelta = 0)
      ∧ (u.params.wf = true ∧ u.cfgDelta.length = u.params.lMax ∧ Memory.wf u.params u.cells = true
        ∧ validate u.params u.cfgSize u.cfgL u.cfgDelta = 0) := by
  decide

theorem witness_ErrDetail_exec :
    (∃ t, exec .config (withConfig t1 0 0 1 [0]) = .next t) ∧ ∃ t, exec .config (withConfig t1 4 0 1 [6]) = .next t :=
  ⟨⟨_, rfl⟩, _, rfl⟩

theorem witness_FailedConfigKeepsTheFilter :
    validate t1.params (withConfig t1 0 0 1 [0]).cfgSize (withConfig t1 0 0 1 [0]).cfgL
      (withConfig t1 0 0 1 [0]).cfgDelta ≠ 0 := by decide

/-! #### ADD, CONTAINS, OVERLAPS -/

/-- The largest key that fits. -/
theorem witness_AddSetsTheKeysBits :
    (withOperands t1 0xFFFF 0).status.cfgValid = true
      ∧ keyFits (withOperands t1 0xFFFF 0).params (withOperands t1 0xFFFF 0).opa = true
      ∧ ((withOperands t1 0xFFFF 0).geom Config.hash).addressable = true := by decide

theorem witness_ContainsAnswers :
    (withOperands t1 0 0).status.cfgValid = true
      ∧ keyFits (withOperands t1 0 0).params (withOperands t1 0 0).opa = true
      ∧ ((withOperands t1 0 0).geom Config.hash).addressable = true := by decide

theorem witness_PointPreconditions :
    (State.resetOf i16).status.cfgValid = false
      ∧ ((withOperands t1 0x10000 0).status.cfgValid = true
        ∧ 2 ^ (withOperands t1 0x10000 0).params.keyW.bits ≤ (withOperands t1 0x10000 0).opa.toNat) := by
  decide

/-- One key, and the whole domain. -/
theorem witness_OverlapsAnswersTheReference :
    t1.status.cfgValid = true ∧ keyFits i16 5 = true ∧ (5 : Word).toNat ≤ (5 : Word).toNat
      ∧ keyFits i16 0 = true ∧ keyFits i16 0xFFFF = true ∧ (0 : Word).toNat ≤ (0xFFFF : Word).toNat
      ∧ ((withOperands t1 0 0xFFFF).geom Config.hash).addressable = true := by
  decide

theorem witness_OverlapsPreconditions :
    (State.resetOf i16).status.cfgValid = false
      ∧ (2 ^ i16.keyW.bits ≤ (0x10000 : Word).toNat ∧ t1.status.cfgValid = true)
      ∧ ((0xFFFF : Word).toNat < 2 ^ i16.keyW.bits ∧ (0xFFFE : Word).toNat < (0xFFFF : Word).toNat) := by
  decide

theorem witness_OverlapsReferenceHasItsClosedForm :
    legalConfig i16 t1Active = true ∧ 0 ≤ 65535 ∧ 65535 < 2 ^ (t1.geom Config.hash).keyBits := by decide

theorem witness_OverlapsOfOneKey :
    legalConfig t1.params t1.act = true ∧ t1.status.cfgValid = true ∧ keyFits t1.params 0xFFFF = true := by
  decide

theorem witness_FullDomain : legalConfig (t1.geom Config.hash).params (t1.geom Config.hash).act = true := by decide

/-- A check of each tag that meets its condition (95_test_vectors.md L2.4.1 in kind). -/
theorem witness_SplitKeeps :
    (Check.dyadic 3 ⟨0, 7, .notYetSplit⟩ ∧ Check.tagOk 2 6 ⟨0, 7, .notYetSplit⟩)
      ∧ (Check.dyadic 3 ⟨8, 15, .left⟩ ∧ Check.tagOk 15 20 ⟨8, 15, .left⟩)
      ∧ (Check.dyadic 3 ⟨8, 15, .right⟩ ∧ Check.tagOk 3 8 ⟨8, 15, .right⟩)
      ∧ (⟨0, 3, .left⟩ : Check) ∈ split1 2 6 ⟨0, 7, .notYetSplit⟩ ∧ 15 < 2 ^ 4 := by
  refine ⟨⟨?_, ?_⟩, ⟨?_, ?_⟩, ⟨?_, ?_⟩, by decide, by decide⟩ <;> constructor <;> decide

theorem witness_AdvanceGives :
    (⟨2, 3, .left⟩ : Check) ∈ advance 2 6 2 [⟨0, 7, .notYetSplit⟩] ∧ (2 : Nat) ≤ 3 := by decide

/-- The bit span of lo, and the bit span of hi. -/
theorem witness_AtMostTwoChecksAreCovering :
    (0 % 2 ^ 3 = 0 ∧ 0 ≤ 12 ∧ 5 ≤ 0 + 2 ^ 3 - 1 ∧ 0 < 5)
      ∧ (8 % 2 ^ 3 = 0 ∧ 8 ≤ 12 ∧ 5 ≤ 8 + 2 ^ 3 - 1 ∧ 12 < 8 + 2 ^ 3 - 1) := by decide

/-! #### Hash, words and probes -/

/-- Two keys of one word span at layer 0, and two keys of one bit span at layer 1. -/
theorem witness_KeysOfOneSpan :
    legalConfig i16 t1Active = true ∧ 1 < (t1.geom Config.hash).layers
      ∧ (t1.geom Config.hash).keyPrefix 0 64 = (t1.geom Config.hash).keyPrefix 0 127
      ∧ 128 >>> (t1.geom Config.hash).shift 1 = 255 >>> (t1.geom Config.hash).shift 1 := by decide

/-- T1 has a layer of each regime; WW_i = B is a small word (41_hash_locate.md rule R260). -/
theorem witness_LocateAgrees :
    (t1.geom Config.hash).cellBits < (t1.geom Config.hash).wordWidth 0
      ∧ (t1.geom Config.hash).wordWidth 1 ≤ (t1.geom Config.hash).cellBits
      ∧ (t1.geom Config.hash).addressable = true ∧ 1 < (t1.geom Config.hash).layers := by decide

theorem witness_RangeProbe :
    1 ≤ (t1.geom Config.hash).delta 0 ∧ (64 : Nat) ≤ 127
      ∧ (t1.geom Config.hash).keyPrefix 0 64 = (t1.geom Config.hash).keyPrefix 0 127 := by decide

theorem witness_SmallWordProbe :
    1 ≤ (t1.geom Config.hash).delta 1 ∧ (t1.geom Config.hash).wordWidth 1 ≤ (t1.geom Config.hash).cellBits
      ∧ (256 : Nat) ≤ 511
      ∧ (t1.geom Config.hash).keyPrefix 1 256 = (t1.geom Config.hash).keyPrefix 1 511 := by decide

/-! #### What the filter promises -/

/-- A host write to OPA is a step of `Later`. -/
theorem witness_Later :
    ∃ u, Later (withInputs t1 [.cycle false (some (.wr 0x028 7))]) u ∧ u.opa = 7 :=
  ⟨_, .step (.refl _) (by decide) rfl, rfl⟩

/-- A running CONTAINS and an issued CONTAINS meet the premises of the second clause. -/
theorem witness_OnlyAddSetsBits :
    (∃ t, step t1EndOfSegment = .next t) ∧ clearsFilter t1EndOfSegment = false
      ∧ t1EndOfSegment.seq.phase ≠ .ptLayer ∧ t1EndOfSegment.inputs = []
      ∧ (∃ t, step (withInputs t1 [.issue 3]) = .next t) ∧ clearsFilter (withInputs t1 [.issue 3]) = false
      ∧ (withInputs t1 [.issue 3]).seq.phase = .idle ∧ decode 3 ≠ .command .add :=
  ⟨⟨_, rfl⟩, by decide, by decide, by decide, ⟨_, rfl⟩, by decide, by decide,
    by decide⟩

theorem witness_AddsDependOnlyOnTheSetOfKeys :
    (t1.geom Config.hash).addressable = true ∧ Memory.wf (t1.geom Config.hash).params t1.cells = true
      ∧ ∀ k, k ∈ [7, 9, 7] ↔ k ∈ [9, 7] := by
  refine ⟨by decide, by decide, fun k => ?_⟩
  simp only [List.mem_cons, List.not_mem_nil, or_false]
  tauto

theorem witness_AddedKeyIsContained :
    ∃ t, exec .add (withOperands t1 0x1234 0) = .next t ∧ t.status.err = false ∧ Later t t :=
  ⟨_, rfl, rfl, .refl _⟩

/-- A range that holds the key, with both ends at it and with both ends at the domain's. -/
theorem witness_AddedKeyIsFoundByEveryRange :
    legalConfig (withOperands t1 0x1234 0).params (withOperands t1 0x1234 0).act = true
      ∧ (∃ t, exec .add (withOperands t1 0x1234 0) = .next t ∧ t.status.err = false ∧ Later t t)
      ∧ (0x1234 : Word).toNat ≤ (withOperands t1 0x1234 0).opa.toNat ∧ (0 : Word).toNat ≤ (0x1234 : Word).toNat
      ∧ (0x1234 : Word).toNat ≤ (0xFFFF : Word).toNat ∧ keyFits t1.params 0xFFFF = true :=
  ⟨by decide, ⟨_, rfl, rfl, .refl _⟩, by decide, by decide, by decide, by decide⟩

/-- Every cell of T1 full. -/
def fullCells : Memory := [(0, 0xFFFFFFFF), (1, 0xFFFFFFFF), (2, 0xFFFFFFFF), (3, 0xFFFFFFFF)]

theorem full_bit : ∀ c : Fin 4, ∀ j : Fin 32, Memory.bit fullCells c j = true := by decide

/-- In a full memory every bit of T1's layers is set, under any hash. -/
theorem full_bitProbe (h : HashFn) (k i : Nat) (hi : i < 2) : Geom.bitProbe (t1.geom h) fullCells i k = true := by
  rw [bitProbe_eq_bit]
  have hb : (t1.geom h).cellBits = 32 := rfl
  have hq : (t1.geom h).bitIndex i k < 128 := by
    have ho : (t1.geom h).offset i k ≤ ones ((t1.geom h).delta i - 1) := Nat.and_le_right
    have hw : (t1.geom h).wordIndex i k = (t1.geom h).layerHash i k % (t1.geom h).wordCount i := rfl
    unfold Geom.bitIndex
    interval_cases i
    · have h1 : ones ((t1.geom h).delta 0 - 1) = 63 := rfl
      have h3 : (t1.geom h).wordWidth 0 = 64 := rfl
      have h2 : (t1.geom h).wordCount 0 = 2 := by
        show 4 * 32 / (t1.geom h).wordWidth 0 = 2
        rw [h3]
      rw [h1] at ho; rw [h2] at hw; rw [h3]; omega
    · have h1 : ones ((t1.geom h).delta 1 - 1) = 1 := rfl
      have h3 : (t1.geom h).wordWidth 1 = 2 := rfl
      have h2 : (t1.geom h).wordCount 1 = 64 := by
        show 4 * 32 / (t1.geom h).wordWidth 1 = 64
        rw [h3]
      rw [h1] at ho; rw [h2] at hw; rw [h3]; omega
  have hc : ((t1.geom h).locate i k).1 < 4 := by
    show (t1.geom h).bitIndex i k / (t1.geom h).cellBits < 4
    rw [hb]; omega
  have hj : (t1.geom h).bitIndex i k % (t1.geom h).cellBits < 32 := by rw [hb]; omega
  exact full_bit ⟨_, hc⟩ ⟨_, hj⟩

/-- A CONTAINS that answers 1, under any hash. -/
theorem witness_AnswersAreMonotone :
    ∃ t, exec .contains (withOperands (t1.setCells fullCells) 7 9) = .next t ∧ t.status.result = true
      ∧ Later t1 t1 := by
  refine ⟨_, rfl, ?_, .refl _⟩
  show Geom.containsKey (t1.geom Config.hash) fullCells 7 = true
  unfold Geom.containsKey
  rw [List.all_eq_true]
  intro i hi
  exact full_bitProbe _ _ _ (List.mem_range.mp hi)

theorem witness_EmptyFilterAnswersNo :
    (withConfig (State.resetOf i16) 4 0 1 [6]).inv = true
      ∧ ∃ t, exec .config (withConfig (State.resetOf i16) 4 0 1 [6]) = .next t ∧ t.status.err = false :=
  ⟨by decide, _, rfl, rfl⟩

/-- One command that succeeds, and one that ends in error. -/
theorem witness_EveryCommandEndsDone :
    (∃ t, exec .overlaps (withOperands t1 4 5) = .next t ∧ t.status.err = false)
      ∧ (∃ t, exec .overlaps (withOperands t1 5 4) = .next t ∧ t.status.err = true) ∧ rstNow t1 = false :=
  ⟨⟨_, rfl, rfl⟩, ⟨_, rfl, rfl⟩, by decide⟩

/-! #### The engine step by step -/

theorem witness_ErrorsComeBeforeAnyCellAccess :
    (t1Launched 4 5 4).status.err = false
      ∧ ∃ t, engineStepWith hT (t1Launched 4 5 4) = .next t ∧ t.status.err = true :=
  ⟨by decide, _, rfl, rfl⟩

theorem witness_AddTakesOneStepPerLayer :
    (t1Launched 2 0x1234 0).seq.fresh = true ∧ (t1Launched 2 0x1234 0).status.busy = true
      ∧ (t1Launched 2 0x1234 0).latch.curOp = encode .add
      ∧ pointError (t1Launched 2 0x1234 0) = none ∧ ((t1Launched 2 0x1234 0).geom hT).addressable = true
      ∧ 1 ≤ ((t1Launched 2 0x1234 0).geom hT).layers := by decide

theorem witness_ContainsTakesAtMostOneStepPerLayer :
    (t1Launched 3 0x1234 0).seq.fresh = true ∧ (t1Launched 3 0x1234 0).latch.curOp = encode .contains
      ∧ pointError (t1Launched 3 0x1234 0) = none ∧ ((t1Launched 3 0x1234 0).geom hT).addressable = true
      ∧ 1 ≤ ((t1Launched 3 0x1234 0).geom hT).layers := by decide

theorem witness_ConfigTakesOneStepPerCell :
    let s := launch 1 (withConfig t1 4 0 1 [6])
    s.seq.fresh = true ∧ s.status.busy = true ∧ s.latch.curOp = encode .config ∧ validateLatch s = 0 := by decide

theorem witness_SequencerAnswersTheReference :
    legalConfig (t1Launched 4 0 0xFFFF).params (t1Launched 4 0 0xFFFF).act = true
      ∧ (t1Launched 4 0 0xFFFF).seq.fresh = true ∧ (t1Launched 4 0 0xFFFF).latch.curOp = encode .overlaps
      ∧ rangeError (t1Launched 4 0 0xFFFF) = none := by decide

theorem witness_PhaseStepsRefineEveryCommand : t1.inv = true ∧ t1.seq.phase = .idle := by decide

theorem witness_EveryRunningCommandCompletes :
    t1EndOfSegment.inv = true ∧ frontierOk t1EndOfSegment = true ∧ t1EndOfSegment.inputs = []
      ∧ t1EndOfSegment.status.busy = true := by decide

theorem witness_ClockedRun :
    (withInputs t1 [.cycle false (some (.wr cmdOffset (encode .add)))]).inv = true
      ∧ (withInputs t1 [.cycle false (some (.wr cmdOffset (encode .add)))]).status.busy = false
      ∧ (withInputs t1 [.cycle false (some (.wr cmdOffset (encode .add)))]).inputs
        = [.cycle false (some (.wr cmdOffset (encode .add)))] := by decide

end Sys2Proof.Tests
end

section
/-! The host port: an access reaches the register that the offset map names (10_state.md rule R43), and what that says
for STATUS (rule R55). -/

namespace Sys2Proof.Machine

/-! ### The port at a mapped offset -/

theorem hostRead_of_regAt {s : State} {off : Offset} {r : Reg} (h : regAt s.params off = some r) :
    hostRead s off = readReg s r := by
  simp only [hostRead, h]

theorem hostWrite_of_regAt {s : State} {off : Offset} {r : Reg} (h : regAt s.params off = some r) (v : Word) :
    hostWrite s off v = writeReg v s r := by
  simp only [hostWrite, h]

/-! ### STATUS -/

@[simp] theorem regAt_statusOffset (p : Params) : regAt p statusOffset = some .status := rfl

@[simp] theorem hostRead_statusOffset (s : State) : hostRead s statusOffset = statusWord s.status :=
  hostRead_of_regAt (regAt_statusOffset s.params)

@[simp] theorem hostWrite_statusOffset (s : State) (v : Word) : hostWrite s statusOffset v = writeStatus v s :=
  hostWrite_of_regAt (regAt_statusOffset s.params) v

/-- Masking a bit by the complement of a written bit clears it where a 1 is written (W1C). -/
theorem writeStatus_eq_clear (v : Word) (s : State) :
    writeStatus v s
      = { s with status := { s.status with
          done := if v.getLsbD 1 then false else s.status.done
          ovr := if v.getLsbD 5 then false else s.status.ovr } } := by
  simp only [writeStatus, Bool.if_false_left, Bool.decide_eq_true, Bool.and_comm]

theorem applyAccess_read_statusOffset (s : State) :
    applyAccess s (some (.rd statusOffset)) = s.setRdata (statusWord s.status) :=
  congrArg s.setRdata (hostRead_statusOffset s)

/-- Settles O10: STATUS is the register at its offset; a write masks DONE and OVR by the complement of bits 1 and 5, and a
read only puts the word on the port. -/
theorem statusWriteClearsDoneAndOvr : Obligations.StatusWriteClearsDoneAndOvr := by
  intro s v
  constructor
  · calc hostWrite s statusOffset v = writeStatus v s := hostWrite_statusOffset s v
      _ = _ := writeStatus_eq_clear v s
  · exact applyAccess_read_statusOffset s

end Sys2Proof.Machine
end

section
/-! The command word: its two fields determine it, and the decoder inverts the encoder (30_encoding.md rules R150, R153
to R155). -/

namespace Sys2Proof

/-! ### The encodings of the commands -/

theorem encoding_statement (i : Instr) : Laws.Encoding.Statement i := by
  cases i with
  | config => exact Laws.Encoding.config
  | add => exact Laws.Encoding.add
  | contains => exact Laws.Encoding.contains
  | overlaps => exact Laws.Encoding.overlaps

@[simp] theorem decode_encode (i : Instr) : decode (encode i) = .command i := by
  obtain ⟨_, _, hdecode, _, _⟩ := encoding_statement i
  exact hdecode

@[simp] theorem rsvdField_encode (i : Instr) : rsvdField (encode i) = 0 := by
  obtain ⟨_, _, _, _, hrsvd⟩ := encoding_statement i
  exact hrsvd

/-! ### The fields of a command word -/

/-- RSVD and OPCODE, side by side, are the whole word (rule R150). -/
theorem rsvdField_append_opcodeField (v : Word) : rsvdField v ++ opcodeField v = v :=
  (BitVec.extractLsb'_append_extractLsb'_eq_extractLsb' (by decide)).trans BitVec.extractLsb'_eq_self

theorem eq_of_fields_eq {v w : Word} (hr : rsvdField v = rsvdField w) (ho : opcodeField v = opcodeField w) : v = w := by
  rw [← rsvdField_append_opcodeField v, hr, ho, rsvdField_append_opcodeField]

/-! ### What the decoder reads -/

/-- A word that decodes to a command has no reserved bit set and has that command's OPCODE. -/
theorem fields_of_decode_eq_command {v : Word} {i : Instr} (h : decode v = .command i) :
    rsvdField v = 0 ∧ opcodeField v = opcodeField (encode i) := by
  unfold decode at h
  split_ifs at h with hrsvd hconfig hadd hcontains hoverlaps <;> cases h <;> refine ⟨not_not.mp hrsvd, ?_⟩
  exacts [hconfig, hadd, hcontains, hoverlaps]

/-- A command is decoded from its encoding and from no other word (rule R153). -/
theorem decode_eq_command_iff {v : Word} {i : Instr} : decode v = .command i ↔ v = encode i := by
  constructor
  · intro h
    obtain ⟨hrsvd, hopcode⟩ := fields_of_decode_eq_command h
    exact eq_of_fields_eq (hrsvd.trans (rsvdField_encode i).symm) hopcode
  · rintro rfl
    exact decode_encode i

/-- The illegal words are those that encode no command (rule R155). -/
theorem decode_illegal_iff {v : Word} : (∃ why, decode v = .illegal why) ↔ ∀ i, v ≠ encode i := by
  simp only [ne_eq, ← decode_eq_command_iff]
  cases decode v with
  | command i => simp
  | illegal why => simp

theorem forall_instr {P : Instr → Prop} : (∀ i, P i) ↔ P .config ∧ P .add ∧ P .contains ∧ P .overlaps := by
  constructor
  · intro h
    exact ⟨h .config, h .add, h .contains, h .overlaps⟩
  · rintro ⟨hconfig, hadd, hcontains, hoverlaps⟩ i
    cases i with
    | config => exact hconfig
    | add => exact hadd
    | contains => exact hcontains
    | overlaps => exact hoverlaps

/-- Settles O1: the decoder inverts the encoder, and the four words are the encodings of the four commands. -/
theorem decodeReadsExactlyTheFourWords : Obligations.DecodeReadsExactlyTheFourWords := by
  intro v
  exact ⟨decode_eq_command_iff, decode_eq_command_iff, decode_eq_command_iff, decode_eq_command_iff,
    decode_illegal_iff.trans forall_instr⟩

end Sys2Proof
end

section
/-! CONFIG: the cell count (40_config.md rule R201), the checks of VALIDATE (rule R202), and the filter that COMMIT and the
clearing pass leave (rules R208 to R213). -/

namespace Sys2Proof.Machine

/-! ### The cell count -/

/-- B is a whole number of bytes (rule R201: B/8 is 4, 8 or 16). -/
theorem cellBits_eq_bytes (p : Params) : p.cellB.bits = 8 * (p.cellB.bits / 8) := by
  cases p.cellB <;> rfl

/-- N·(B/8) is the first multiple of B/8 that is not below the size. -/
theorem cellCount_bounds (p : Params) (size : Word) :
    size.toNat ≤ cellCount p size * (p.cellB.bits / 8)
      ∧ cellCount p size * (p.cellB.bits / 8) < size.toNat + p.cellB.bits / 8 := by
  unfold cellCount
  have hB := cellBits_bounds p
  generalize p.cellB.bits / 8 = b, (show 0 < p.cellB.bits / 8 by omega) = hb
  have hdiv := Nat.div_add_mod (size.toNat + b - 1) b
  have hmod := Nat.mod_lt (size.toNat + b - 1) hb
  rw [mul_comm] at hdiv
  omega

theorem one_le_cellCount {p : Params} {size : Word} (h : size ≠ 0) : 1 ≤ cellCount p size := by
  by_contra hzero
  have hle := (cellCount_bounds p size).1
  rw [show cellCount p size = 0 by omega, zero_mul] at hle
  exact h (BitVec.eq_of_toNat_eq (Nat.le_zero.mp hle))

/-- Settles O22: the two bounds of the ceiling, times 8 for the count of bits. -/
theorem cellCountIsTheCeiling : Obligations.CellCountIsTheCeiling := by
  refine ⟨fun p size => ?_, by decide, by decide, by decide⟩
  obtain ⟨hlow, hhigh⟩ := cellCount_bounds p size
  refine ⟨hlow, hhigh, ?_⟩
  have hbytes := cellBits_eq_bytes p
  calc cellCount p size * p.cellB.bits = 8 * (cellCount p size * (p.cellB.bits / 8)) := by
        rw [Nat.mul_left_comm, ← hbytes]
    _ ≤ 8 * size.toNat + (p.cellB.bits - 8) := by omega

/-! ### The shift table -/

@[simp] theorem shiftOf_zero (delta : List Word) : shiftOf delta 0 = 0 := rfl

/-- The recursion of rule R208; a width beyond the list counts as 0. -/
theorem shiftOf_succ (delta : List Word) (j : Nat) :
    shiftOf delta (j + 1) = shiftOf delta j + (delta.getD j 0).toNat := by
  unfold shiftOf
  rw [List.take_add_one, List.getD_eq_getElem?_getD]
  cases delta[j]? <;> simp

theorem shiftOf_eq_sum (delta : List Word) (n : Nat) :
    shiftOf delta n = ∑ j ∈ Finset.range n, (delta.getD j 0).toNat := by
  induction n with
  | zero => rfl
  | succ n ih => rw [shiftOf_succ, Finset.sum_range_succ, ih]

theorem shiftOf_mono (delta : List Word) : Monotone (shiftOf delta) :=
  monotone_nat_of_le_succ fun j => by rw [shiftOf_succ]; omega

/-! ### VALIDATE -/

theorem flagBit_getLsbD (b : Bool) {k : Nat} (hk : k < 64) (j : Nat) :
    (flagBit b k).getLsbD j = (b && decide (j = k)) := by
  cases b with
  | false => simp [flagBit]
  | true =>
    have htwo : (1 : Word) <<< k = BitVec.twoPow 64 k := (BitVec.twoPow_eq 64 k).symm
    rw [flagBit, if_pos rfl, htwo, BitVec.getLsbD_twoPow]
    simp [hk, eq_comm]

theorem examined_sum (p : Params) (l : Word) (delta : List Word) :
    (examined p l delta).sum = ∑ j ∈ Finset.range (min l.toNat p.lMax), (delta.getD j 0).toNat :=
  shiftOf_eq_sum delta _

/-- Some examined width has a property: it is one of the first min(L, L_MAX) registers. -/
theorem examined_any {p : Params} {delta : List Word} (hlen : delta.length = p.lMax) (l : Word) (f : Nat → Bool) :
    (examined p l delta).any f = true ↔ ∃ j, j < min l.toNat p.lMax ∧ f (delta.getD j 0).toNat = true := by
  simp only [examined, List.any_map, List.any_eq_true, List.mem_take_iff_getElem, Function.comp_apply]
  constructor
  · rintro ⟨d, ⟨j, hj, rfl⟩, hd⟩
    refine ⟨j, by omega, ?_⟩
    rwa [List.getD_eq_getElem _ _ (by omega)]
  · rintro ⟨j, hj, hd⟩
    refine ⟨_, ⟨j, by omega, rfl⟩, ?_⟩
    rwa [List.getD_eq_getElem _ _ (by omega)] at hd

/-- ERRDETAIL bit by bit: check k of rule R202 at position k. -/
theorem validate_getLsbD (p : Params) (size l : Word) (delta : List Word) (k : Nat) :
    (validate p size l delta).getLsbD k =
      (decide (size.toNat = 0) && decide (k = 0)
        || decide (l.toNat = 0) && decide (k = 1)
        || decide (l.toNat > p.lMax) && decide (k = 2)
        || (examined p l delta).any (fun d => decide (d = 0)) && decide (k = 3)
        || decide ((examined p l delta).sum > p.keyW.bits) && decide (k = 4)
        || decide (cellCount p size > p.nMax) && decide (k = 5)
        || (decide (size.toNat ≠ 0) && decide (cellCount p size ≤ p.nMax)
            && (examined p l delta).any fun d => decide (1 ≤ d) && wordOver d (cellCount p size * p.cellB.bits))
          && decide (k = 6)) := by
  simp (disch := decide) only [validate, BitVec.getLsbD_or, flagBit_getLsbD]

/-- Each check of rule R202 stands in its bit of ERRDETAIL, and no other bit is set. -/
theorem validate_bits {p : Params} {delta : List Word} (hlen : delta.length = p.lMax) (size l : Word) :
    ((validate p size l delta).getLsbD 0 = true ↔ size = 0)
      ∧ ((validate p size l delta).getLsbD 1 = true ↔ l = 0)
      ∧ ((validate p size l delta).getLsbD 2 = true ↔ l.toNat > p.lMax)
      ∧ ((validate p size l delta).getLsbD 3 = true
          ↔ ∃ j, j < min l.toNat p.lMax ∧ (delta.getD j 0).toNat = 0)
      ∧ ((validate p size l delta).getLsbD 4 = true
          ↔ ∑ j ∈ Finset.range (min l.toNat p.lMax), (delta.getD j 0).toNat > p.keyW.bits)
      ∧ ((validate p size l delta).getLsbD 5 = true ↔ cellCount p size > p.nMax)
      ∧ ((validate p size l delta).getLsbD 6 = true
          ↔ size ≠ 0 ∧ cellCount p size ≤ p.nMax ∧ ∃ j, j < min l.toNat p.lMax ∧ (delta.getD j 0).toNat ≥ 1
              ∧ 2 ^ ((delta.getD j 0).toNat - 1) > cellCount p size * p.cellB.bits)
      ∧ ∀ k, 7 ≤ k → (validate p size l delta).getLsbD k = false := by
  have hzero (v : Word) : v.toNat = 0 ↔ v = 0 := BitVec.toNat_inj (y := 0)
  simp only [validate_getLsbD]
  refine ⟨?_, ?_, ?_, ?_, ?_, ?_, ?_, fun k hk => ?_⟩
  · simp [hzero]
  · simp [hzero]
  · simp
  · simpa using examined_any hlen l fun d => decide (d = 0)
  · simp [examined_sum]
  · simp
  · have hwide := examined_any hlen l fun d => decide (1 ≤ d) && wordOver d (cellCount p size * p.cellB.bits)
    simp only [Bool.and_eq_true, decide_eq_true_eq, wordOver_iff] at hwide
    simp [hzero, hwide, and_assoc]
  · obtain ⟨j, rfl⟩ := Nat.exists_eq_add_of_le' hk
    simp

/-! ### Valid parameters -/

/-- What VALIDATE guarantees where no check fails, over all the L widths (rule R202). -/
structure ValidParams (p : Params) (size l : Word) (delta : List Word) : Prop where
  one_le_layers : 1 ≤ l.toNat
  layers_le : l.toNat ≤ p.lMax
  one_le_width : ∀ j, j < l.toNat → 1 ≤ (delta.getD j 0).toNat
  sum_le : shiftOf delta l.toNat ≤ p.keyW.bits
  one_le_cells : 1 ≤ cellCount p size
  cells_le : cellCount p size ≤ p.nMax
  word_le : ∀ j, j < l.toNat → 2 ^ ((delta.getD j 0).toNat - 1) ≤ cellCount p size * p.cellB.bits

theorem validParams_of_validate {p : Params} {size l : Word} {delta : List Word} (hlen : delta.length = p.lMax)
    (hv : validate p size l delta = 0) : ValidParams p size l delta := by
  have hbit (k : Nat) : ¬ (validate p size l delta).getLsbD k = true := by simp [hv]
  obtain ⟨hsizeZero, hlZero, hlOver, hdeltaZero, hdeltaSum, hsizeOver, hwordOver, -⟩ := validate_bits hlen size l
  have hsize : size ≠ 0 := hsizeZero.not.mp (hbit 0)
  have hl : l ≠ 0 := hlZero.not.mp (hbit 1)
  have hle : l.toNat ≤ p.lMax := not_lt.mp (hlOver.not.mp (hbit 2))
  rw [min_eq_left hle] at hdeltaZero hdeltaSum hwordOver
  have hcells : cellCount p size ≤ p.nMax := not_lt.mp (hsizeOver.not.mp (hbit 5))
  have hwidth (j : Nat) (hj : j < l.toNat) : 1 ≤ (delta.getD j 0).toNat :=
    Nat.one_le_iff_ne_zero.mpr fun h => hdeltaZero.not.mp (hbit 3) ⟨j, hj, h⟩
  exact
    { one_le_layers := Nat.one_le_iff_ne_zero.mpr fun h => hl (BitVec.eq_of_toNat_eq h)
      layers_le := hle
      one_le_width := hwidth
      sum_le := by
        rw [shiftOf_eq_sum]
        exact not_lt.mp (hdeltaSum.not.mp (hbit 4))
      one_le_cells := one_le_cellCount hsize
      cells_le := hcells
      word_le := fun j hj => not_lt.mp fun h =>
        hwordOver.not.mp (hbit 6) ⟨hsize, hcells, j, hj, hwidth j hj, h⟩ }

/-! ### What CONFIG answers -/

/-- CONFIG whose validation fails raises INVALID_PARAMS with what VALIDATE found (rule R210). -/
theorem exec_config_of_invalid {s : State} (hv : validate s.params s.cfgSize s.cfgL s.cfgDelta ≠ 0) :
    exec .config s = .next
      (raiseError .invalidParams (validate s.params s.cfgSize s.cfgL s.cfgDelta) (launch 1 s)) := by
  have hrun : runConfig (launch 1 s) = _ := if_pos hv
  exact congrArg Host.Outcome.next hrun

/-- CONFIG whose validation succeeds clears the cells, commits and completes (rule R200). -/
theorem exec_config_of_valid {s : State} (hv : validate s.params s.cfgSize s.cfgL s.cfgDelta = 0) :
    exec .config s = .next (complete false (commit
      ((launch 1 s).setCells (clearCells (cellCount s.params s.cfgSize) s.cells)))) := by
  have hrun : runConfig (launch 1 s) = _ := if_neg (not_not.mpr hv)
  exact congrArg Host.Outcome.next hrun

/-- CONFIG ends without error exactly where no check fails. -/
theorem config_err_iff {s t : State} (ht : exec .config s = .next t) :
    t.status.err = false ↔ validate s.params s.cfgSize s.cfgL s.cfgDelta = 0 := by
  by_cases hv : validate s.params s.cfgSize s.cfgL s.cfgDelta = 0
  · rw [exec_config_of_valid hv] at ht
    obtain rfl := Host.Outcome.next.inj ht
    simp [hv]
  · rw [exec_config_of_invalid hv] at ht
    obtain rfl := Host.Outcome.next.inj ht
    simpa using hv

/-- Settles O21: the checks bit by bit, and CONFIG's two outcomes. -/
theorem errDetailNamesEveryFailedCheck : Obligations.ErrDetailNamesEveryFailedCheck :=
  ⟨fun _ size l _ hlen => validate_bits hlen size l, fun _ _ ht => config_err_iff ht⟩

/-- Settles O24: the error completion writes no cell, no active register and no register of the host. -/
theorem failedConfigKeepsTheFilter : Obligations.FailedConfigKeepsTheFilter := by
  intro s hv
  refine ⟨_, exec_config_of_invalid hv, ?_, rfl⟩
  simp [EndedInError, LatchedFrom, HostRegsKept, failed]

/-! ### The clearing pass -/

theorem clearCells_succ (n : Nat) (m : Memory) : clearCells (n + 1) m = Memory.write (clearCells n m) n 0 := by
  simp [clearCells, List.range_succ]

theorem rising_clearCells {m : Memory} (hm : Memory.Rising m) (n : Nat) : Memory.Rising (clearCells n m) := by
  induction n with
  | zero => exact hm
  | succ n ih =>
    rw [clearCells_succ]
    exact rising_write ih n 0

/-- The cells below n read 0 after the pass, and the others are not written (rule R211). -/
theorem read_clearCells {m : Memory} (hm : Memory.Rising m) (n c : Nat) :
    Memory.read (clearCells n m) c = if c < n then 0 else Memory.read m c := by
  induction n with
  | zero => rfl
  | succ n ih =>
    rw [clearCells_succ]
    by_cases hc : c = n
    · subst hc
      rw [read_write_self (rising_clearCells hm c), if_pos (Nat.lt_succ_self c)]
    · rw [read_write_ne _ _ hc, ih]
      exact if_congr (by omega) rfl rfl

/-! ### COMMIT -/

theorem lMax_le_of_wf {p : Params} (h : p.wf = true) : p.lMax ≤ p.keyW.bits := by
  simp only [Params.wf, Bool.and_eq_true, decide_eq_true_eq] at h
  exact h.2

section Commit
variable {p : Params} {size seed l : Word} {delta : List Word} {a : Active}

/-- Every shift of valid widths is at most W, and so fits the 7 bits of its register. -/
theorem ValidParams.shiftOf_le (hv : ValidParams p size l delta) {j : Nat} (hj : j ≤ l.toNat) :
    shiftOf delta j ≤ p.keyW.bits :=
  (shiftOf_mono delta hj).trans hv.sum_le

/-- A valid width is part of a valid sum. -/
theorem ValidParams.width_le (hv : ValidParams p size l delta) {j : Nat} (hj : j < l.toNat) :
    (delta.getD j 0).toNat ≤ p.keyW.bits := by
  have hsum := hv.shiftOf_le (Nat.succ_le_of_lt hj)
  rw [shiftOf_succ] at hsum
  omega

theorem commitActive_l_toNat (hp : p.wf = true) (hv : ValidParams p size l delta) (n : Nat) :
    (commitActive p n seed l delta a).l.toNat = l.toNat := by
  have hW := keyBits_bounds p
  have hL := lMax_le_of_wf hp
  have hl := hv.layers_le
  show (l.setWidth 7).toNat = l.toNat
  rw [BitVec.toNat_setWidth]
  exact Nat.mod_eq_of_lt (by omega)

theorem commitActive_delta_toNat (hv : ValidParams p size l delta) (n : Nat) {j : Nat} (hj : j < l.toNat) :
    ((commitActive p n seed l delta a).delta.getD j 0).toNat = (delta.getD j 0).toNat := by
  have hW := keyBits_bounds p
  have hd := hv.width_le hj
  have hjl : j < p.lMax := hj.trans_le hv.layers_le
  have hread : (commitActive p n seed l delta a).delta.getD j 0 = (delta.getD j 0).setWidth 7 := by
    simp [commitActive, hjl, hj]
  rw [hread, BitVec.toNat_setWidth]
  exact Nat.mod_eq_of_lt (by omega)

theorem commitActive_shift_toNat (hv : ValidParams p size l delta) (n : Nat) {j : Nat} (hj : j ≤ l.toNat) :
    ((commitActive p n seed l delta a).shift.getD j 0).toNat = shiftOf delta j := by
  have hW := keyBits_bounds p
  have hs := hv.shiftOf_le hj
  have hjl : j < p.lMax + 1 := Nat.lt_succ_of_le (hj.trans hv.layers_le)
  have hread : (commitActive p n seed l delta a).shift.getD j 0 = BitVec.ofNat 7 (shiftOf delta j) := by
    simp [commitActive, hjl, hj]
  rw [hread, BitVec.toNat_ofNat]
  exact Nat.mod_eq_of_lt (by omega)

/-- COMMIT of valid parameters makes a configuration as 10_state.md rule R72 wants it. -/
theorem legalConfig_commitActive (hp : p.wf = true) (hv : ValidParams p size l delta) :
    legalConfig p (commitActive p (cellCount p size) seed l delta a) = true := by
  rw [legalConfig_iff]
  set g := plainGeom p (commitActive p (cellCount p size) seed l delta a)
  have hlayers : g.layers = l.toNat := commitActive_l_toNat hp hv _
  have hdelta {j : Nat} (hj : j < l.toNat) : g.delta j = (delta.getD j 0).toNat := commitActive_delta_toNat hv _ hj
  have hshift {j : Nat} (hj : j ≤ l.toNat) : g.shift j = shiftOf delta j := commitActive_shift_toNat hv _ hj
  rw [hlayers]
  refine ⟨hv.one_le_layers, hv.layers_le, hv.one_le_cells, hv.cells_le, fun i hi => ⟨?_, ?_, ?_⟩, ?_, ?_, rfl⟩
  · rw [hdelta hi]
    exact hv.one_le_width i hi
  · unfold Geom.wordCount Geom.wordWidth
    rw [hdelta hi]
    exact Nat.div_pos (hv.word_le i hi) (by positivity)
  · rw [hshift hi, hshift hi.le, hdelta hi, shiftOf_succ]
  · rw [hshift (Nat.zero_le _), shiftOf_zero]
  · rw [hshift le_rfl]
    exact hv.sum_le

end Commit

theorem secondSeed_toNat (seed : Word) :
    (secondSeed seed).toNat = (845897321 * seed.toNat + 217728422) % 2 ^ 64 := by
  simp [secondSeed, wrap64, hashConstA, hashConstB]

/-- Settles O23: the cells after the clearing pass, and the registers of COMMIT read back one by one. -/
theorem configMakesTheFilter : Obligations.ConfigMakesTheFilter := by
  intro s hp hlen hwf hvalid
  have hv : ValidParams s.params s.cfgSize s.cfgL s.cfgDelta := validParams_of_validate hlen hvalid
  have hrising : Memory.Rising s.cells := ((wf_iff _ _).mp hwf).1
  refine ⟨_, exec_config_of_valid hvalid, rfl, rfl, rfl, rfl, by simp [HostRegsKept], ?cleared, ?kept, rfl, rfl,
    secondSeed_toNat s.cfgSeed, commitActive_l_toNat hp hv _, fun j => commitActive_delta_toNat hv _, ?shiftZero,
    ?shiftSucc, ?shiftSum, ?shiftBound, legalConfig_commitActive hp hv⟩
  case cleared => exact fun c hc => (read_clearCells hrising _ c).trans (if_pos hc)
  case kept => exact fun c hc => (read_clearCells hrising _ c).trans (if_neg (not_lt.mpr hc))
  case shiftZero => exact commitActive_shift_toNat hv _ (Nat.zero_le _)
  case shiftSucc =>
    intro j hj
    calc
      _ = shiftOf s.cfgDelta (j + 1) := commitActive_shift_toNat hv _ hj
      _ = shiftOf s.cfgDelta j + (s.cfgDelta.getD j 0).toNat := shiftOf_succ _ j
      _ = _ := congrArg (· + _) (commitActive_shift_toNat hv _ hj.le).symm
  case shiftSum => exact (commitActive_shift_toNat hv _ le_rfl).trans (shiftOf_eq_sum _ _)
  case shiftBound => exact (commitActive_shift_toNat hv _ le_rfl).trans_le hv.sum_le

end Sys2Proof.Machine
end

section
/-! The new filter is empty (40_config.md rule R215): a probe of an existing layer reads cells below N only, and these
read 0. -/

namespace Sys2Proof.Machine

/-! ### Where a probe of a layer falls -/

theorem wordWidth_pos (g : Geom) (i : Nat) : 0 < g.wordWidth i := Nat.two_pow_pos _

/-- An offset stays inside its word (41_hash_locate.md rules R256, R257). -/
theorem offset_lt_wordWidth (g : Geom) (i k : Nat) : g.offset i k < g.wordWidth i := by
  have hle : g.offset i k ≤ ones (g.delta i - 1) := Nat.and_le_right
  have hpos := wordWidth_pos g i
  unfold ones at hle
  unfold Geom.wordWidth at *
  omega

theorem one_le_wordCount_of_addressable {g : Geom} (h : g.addressable = true) {i : Nat} (hi : i < g.layers) :
    1 ≤ g.wordCount i := by
  unfold Geom.addressable at h
  rw [Bool.and_eq_true, List.all_eq_true] at h
  exact of_decide_eq_true (h.2 i (List.mem_range.mpr hi))

/-- The bit at the offset of `y` in the word of `x` lies in a cell below N (20_memory.md rule R104). -/
theorem wordBit_cell_lt {g : Geom} (h : g.addressable = true) {i : Nat} (hi : i < g.layers) (x y : Nat) :
    (g.wordIndex i x * g.wordWidth i + g.offset i y) / g.cellBits < g.act.n := by
  have hword : g.wordIndex i x < g.wordCount i := Nat.mod_lt _ (one_le_wordCount_of_addressable h hi)
  refine Nat.div_lt_of_lt_mul ?_
  calc g.wordIndex i x * g.wordWidth i + g.offset i y
      < g.wordIndex i x * g.wordWidth i + g.wordWidth i := Nat.add_lt_add_left (offset_lt_wordWidth g i y) _
    _ = (g.wordIndex i x + 1) * g.wordWidth i := (Nat.succ_mul _ _).symm
    _ ≤ g.wordCount i * g.wordWidth i := Nat.mul_le_mul_right _ hword
    _ ≤ g.act.n * g.cellBits := Nat.div_mul_le_self _ _
    _ = g.cellBits * g.act.n := Nat.mul_comm _ _

/-! ### Probes of cleared cells -/

section Cleared
variable {g : Geom} {m : Memory} (ha : g.addressable = true) (hm : ∀ c, c < g.act.n → Memory.read m c = 0)
include ha hm

theorem bitProbe_of_cleared {i : Nat} (hi : i < g.layers) (k : Nat) : g.bitProbe m i k = false := by
  have hcell : Memory.read m (g.locate i k).1 = 0 := hm _ (wordBit_cell_lt ha hi k k)
  simp [Geom.bitProbe, hcell]

theorem rangeProbe_of_cleared {i : Nat} (hi : i < g.layers) (x y : Nat) : g.rangeProbe m i x y = false := by
  have hlast := wordBit_cell_lt ha hi x y
  unfold Geom.rangeProbe probeBits
  rw [List.any_eq_false]
  intro c hc
  rw [List.mem_range'_1] at hc
  have hcell : Memory.read m c = 0 := hm c (by omega)
  simp [probeCell, hcell]

/-- A configuration has a layer, and its clear bit answers CONTAINS. -/
theorem containsKey_of_cleared (hl : 1 ≤ g.layers) (k : Nat) : g.containsKey m k = false := by
  unfold Geom.containsKey
  rw [List.all_eq_false]
  exact ⟨0, List.mem_range.mpr hl, by simp [bitProbe_of_cleared ha hm hl k]⟩

/-- No check hits at any layer, whatever checks the frontiers hold. -/
theorem refLoop_of_cleared (lo hi : Nat) {n : Nat} (hn : n ≤ g.layers) (checks : List Check) :
    g.refLoop m lo hi n checks = false := by
  induction n generalizing checks with
  | zero => rfl
  | succ i ih =>
    have hhits (c : Check) : g.hits m lo hi i c = false := by
      simp [Geom.hits, rangeProbe_of_cleared ha hm hn c.low c.high]
    unfold Geom.refLoop
    rw [ih (by omega), Bool.or_false, List.any_eq_false]
    exact fun c _ => by simp [hhits c]

theorem overlapsRef_of_cleared (lo hi : Nat) : g.overlapsRef m lo hi = false :=
  refLoop_of_cleared ha hm lo hi le_rfl _

end Cleared

/-! ### The query commands on an addressable configuration -/

theorem runContains_answers {h : HashFn} {s : State} (ha : (s.geom h).addressable = true) :
    Answers (runContains h s) := by
  unfold runContains
  cases pointError s with
  | some e => exact ⟨_, rfl⟩
  | none => exact ⟨_, if_pos ha⟩

theorem runOverlaps_answers {h : HashFn} {s : State} (ha : (s.geom h).addressable = true) :
    Answers (runOverlaps h s) := by
  unfold runOverlaps
  cases rangeError s with
  | some e => exact ⟨_, rfl⟩
  | none => exact ⟨_, if_pos ha⟩

section ClearedState
variable {h : HashFn} {s : State} (ha : (s.geom h).addressable = true)
  (hm : ∀ c, c < s.act.n → Memory.read s.cells c = 0)
include ha hm

/-- CONTAINS ends with RESULT = 0, in an error or because the first bit is clear, and writes no cell. -/
theorem runContains_of_cleared (hl : 1 ≤ (s.geom h).layers) :
    ∃ w, runContains h s = .next w ∧ w.status.result = false ∧ w.cells = s.cells := by
  obtain ⟨w, hw⟩ := runContains_answers ha
  refine ⟨w, hw, ?_⟩
  obtain ⟨e, -, rfl⟩ | ⟨-, -, rfl⟩ := runContains_next hw
  · exact ⟨rfl, rfl⟩
  · exact ⟨containsKey_of_cleared ha hm hl _, rfl⟩

/-- OVERLAPS ends with RESULT = 0, in an error or because no range probe hits, and writes no cell. -/
theorem runOverlaps_of_cleared :
    ∃ w, runOverlaps h s = .next w ∧ w.status.result = false ∧ w.cells = s.cells := by
  obtain ⟨w, hw⟩ := runOverlaps_answers ha
  refine ⟨w, hw, ?_⟩
  obtain ⟨e, -, rfl⟩ | ⟨-, -, rfl⟩ := runOverlaps_next hw
  · exact ⟨rfl, rfl⟩
  · exact ⟨overlapsRef_of_cleared ha hm _ _, rfl⟩

end ClearedState

/-- What a successful CONFIG leaves: a legal configuration, and N cells that read 0. -/
theorem config_leaves_cleared {s t : State} (hinv : s.inv = true) (ht : exec .config s = .next t)
    (herr : t.status.err = false) :
    legalConfig t.params t.act = true ∧ ∀ c, c < t.act.n → Memory.read t.cells c = 0 := by
  obtain ⟨hp, hshape, -, hwf, -⟩ := (inv_iff s).mp hinv
  obtain ⟨hlen, -⟩ := (shapeOk_iff s).mp hshape
  obtain ⟨t', ht', -, -, -, -, -, hcleared, -, hn, -, -, -, -, -, -, -, -, hlegal⟩ :=
    configMakesTheFilter s hp hlen hwf ((config_err_iff ht).mp herr)
  obtain rfl : t' = t := Host.Outcome.next.inj (ht'.symm.trans ht)
  exact ⟨hlegal, fun c hc => hcleared c (hn ▸ hc)⟩

/-- Settles O47: the cells that the probes can reach are those CONFIG cleared. -/
theorem emptyFilterAnswersNo : Obligations.EmptyFilterAnswersNo := by
  intro s t u i hinv ht herr hparams hact hcells hi
  obtain ⟨hlegal, hcleared⟩ := config_leaves_cleared hinv ht herr
  rw [← hparams, ← hact] at hlegal
  rw [← hact, ← hcells] at hcleared
  have ha : (u.geom Config.hash).addressable = true := addressable_of_legalConfig hlegal
  rw [← hcells]
  rcases hi with rfl | rfl
  · have hl : 1 ≤ (u.geom Config.hash).layers := ((legalConfig_iff _ _).mp hlegal).1
    exact runContains_of_cleared (s := launch (encode .contains) u) ha hcleared hl
  · exact runOverlaps_of_cleared (s := launch (encode .overlaps) u) ha hcleared

end Sys2Proof.Machine
end

section
/-! The layout of word spans and bit spans (41_hash_locate.md rules R251, R256 to R259): the bit span of a key, numbered
`k >>> s_i`, is bit OFFSET of word span PREFIX. -/

namespace Sys2Proof.Machine

/-! ### PREFIX and OFFSET are quotient and remainder -/

theorem keyPrefix_eq_div {g : Geom} {i : Nat} (hd : 1 ≤ g.delta i) (k : Nat) :
    g.keyPrefix i k = k >>> g.shift i / g.wordWidth i := by
  unfold Geom.keyPrefix Geom.wordWidth
  rw [Nat.add_sub_assoc hd, Nat.shiftRight_add, Nat.shiftRight_eq_div_pow]

theorem offset_eq_mod (g : Geom) (i k : Nat) : g.offset i k = k >>> g.shift i % g.wordWidth i :=
  Nat.and_two_pow_sub_one_eq_mod _ _

theorem shiftRight_eq_prefix_offset {g : Geom} {i : Nat} (hd : 1 ≤ g.delta i) (k : Nat) :
    k >>> g.shift i = g.wordWidth i * g.keyPrefix i k + g.offset i k := by
  rw [keyPrefix_eq_div hd, offset_eq_mod, Nat.div_add_mod]

theorem shiftRight_mono {a b : Nat} (h : a ≤ b) (s : Nat) : a >>> s ≤ b >>> s := by
  simpa only [Nat.shiftRight_eq_div_pow] using Nat.div_le_div_right h

/-! ### What PREFIX decides -/

section SamePrefix
variable {g : Geom} {i k k' : Nat} (h : g.keyPrefix i k = g.keyPrefix i k')
include h

theorem hashA_congr : g.hashA i k = g.hashA i k' := by unfold Geom.hashA; rw [h]

theorem hashB_congr : g.hashB i k = g.hashB i k' := by unfold Geom.hashB; rw [h]

theorem layerHash_congr : g.layerHash i k = g.layerHash i k' := by
  unfold Geom.layerHash; rw [hashA_congr h, hashB_congr h]

theorem wordIndex_congr : g.wordIndex i k = g.wordIndex i k' := by
  unfold Geom.wordIndex; rw [layerHash_congr h]

end SamePrefix

theorem bitIndex_congr {g : Geom} {i k k' : Nat} (hd : 1 ≤ g.delta i)
    (h : k >>> g.shift i = k' >>> g.shift i) : g.bitIndex i k = g.bitIndex i k' := by
  have hp : g.keyPrefix i k = g.keyPrefix i k' := by rw [keyPrefix_eq_div hd, keyPrefix_eq_div hd, h]
  unfold Geom.bitIndex
  rw [wordIndex_congr hp, offset_eq_mod, offset_eq_mod, h]

theorem one_le_delta_of_legalConfig {g : Geom} (h : legalConfig g.params g.act = true) {i : Nat}
    (hi : i < g.layers) : 1 ≤ g.delta i := by
  obtain ⟨-, -, -, -, hlayers, -⟩ := (legalConfig_iff _ _).mp h
  exact (hlayers i hi).1

/-- Settles O38: PREFIX decides the word, and the bit span decides PREFIX and OFFSET. -/
theorem keysOfOneSpanShareTheirBit : Obligations.KeysOfOneSpanShareTheirBit := by
  intro g i k k' hlegal hi
  refine ⟨fun hp => ⟨hashA_congr hp, hashB_congr hp, layerHash_congr hp, wordIndex_congr hp⟩, fun hs => ⟨?_, ?_⟩⟩
  · rw [offset_eq_mod, offset_eq_mod, hs]
  · unfold Geom.locate
    rw [bitIndex_congr (one_le_delta_of_legalConfig hlegal hi) hs]

/-! ### The keys of one word span and their bits -/

/-- The keys from `x` to `y` meet every span of width `2 ^ s` from that of `x` to that of `y`. -/
theorem exists_key_of_span {x y n s : Nat} (hxy : x ≤ y) (hx : x >>> s ≤ n) (hy : n ≤ y >>> s) :
    ∃ k, x ≤ k ∧ k ≤ y ∧ k >>> s = n := by
  simp only [Nat.shiftRight_eq_div_pow] at *
  have hpow : 0 < 2 ^ s := Nat.two_pow_pos s
  by_cases hn : n * 2 ^ s ≤ x
  · exact ⟨x, le_rfl, hxy, le_antisymm hx ((Nat.le_div_iff_mul_le hpow).mpr hn)⟩
  · exact ⟨n * 2 ^ s, by omega, (Nat.le_div_iff_mul_le hpow).mp hy, Nat.mul_div_cancel n hpow⟩

/-- In one word span the bits of two keys are as far apart as their bit spans. -/
theorem bitIndex_add_shiftRight {g : Geom} {i k k' : Nat} (hd : 1 ≤ g.delta i)
    (hp : g.keyPrefix i k = g.keyPrefix i k') :
    g.bitIndex i k + k' >>> g.shift i = g.bitIndex i k' + k >>> g.shift i := by
  unfold Geom.bitIndex
  rw [shiftRight_eq_prefix_offset hd k, shiftRight_eq_prefix_offset hd k', wordIndex_congr hp, hp]
  omega

theorem bitIndex_le_bitIndex {g : Geom} {i x y : Nat} (hd : 1 ≤ g.delta i) (hxy : x ≤ y)
    (hp : g.keyPrefix i x = g.keyPrefix i y) : g.bitIndex i x ≤ g.bitIndex i y := by
  have hspan := shiftRight_mono hxy (g.shift i)
  have hdist := bitIndex_add_shiftRight hd hp
  omega

theorem keyPrefix_eq_of_between {g : Geom} {i x y k : Nat} (hp : g.keyPrefix i x = g.keyPrefix i y)
    (hxk : x ≤ k) (hky : k ≤ y) : g.keyPrefix i x = g.keyPrefix i k :=
  le_antisymm (shiftRight_mono hxk _) (hp ▸ shiftRight_mono hky _)

/-- The bits of the keys from `x` to `y` are those from the bit of `x` to the bit of `y`. -/
theorem exists_key_bitIndex_iff {g : Geom} {i x y q : Nat} (hd : 1 ≤ g.delta i) (hxy : x ≤ y)
    (hp : g.keyPrefix i x = g.keyPrefix i y) :
    (∃ k, x ≤ k ∧ k ≤ y ∧ g.bitIndex i k = q) ↔ g.bitIndex i x ≤ q ∧ q ≤ g.bitIndex i y := by
  constructor
  · rintro ⟨k, hxk, hky, rfl⟩
    have hpk := keyPrefix_eq_of_between hp hxk hky
    exact ⟨bitIndex_le_bitIndex hd hxk hpk, bitIndex_le_bitIndex hd hky (hpk.symm.trans hp)⟩
  · rintro ⟨hxq, hqy⟩
    obtain ⟨n, rfl⟩ := Nat.exists_eq_add_of_le hxq
    have hend := bitIndex_add_shiftRight hd hp
    obtain ⟨k, hxk, hky, hk⟩ : ∃ k, x ≤ k ∧ k ≤ y ∧ k >>> g.shift i = x >>> g.shift i + n :=
      exists_key_of_span hxy (by omega) (by omega)
    have hdist := bitIndex_add_shiftRight hd (keyPrefix_eq_of_between hp hxk hky)
    exact ⟨k, hxk, hky, by omega⟩

/-- In one word span both ends of a range probe are the bits of their keys (41_hash_locate.md rule R266). -/
theorem rangeProbe_eq_probeBits {g : Geom} {i x y : Nat} (hp : g.keyPrefix i x = g.keyPrefix i y) (m : Memory) :
    g.rangeProbe m i x y = probeBits g.cellBits m (g.bitIndex i x) (g.bitIndex i y) := by
  unfold Geom.rangeProbe Geom.bitIndex
  rw [wordIndex_congr hp]

end Sys2Proof.Machine
end

section
/-! The loop of RANGEPROBE (41_hash_locate.md rules R266, R267, R269): it reads exactly the bits between its two ends, and
in the small-word regime one cell. -/

namespace Sys2Proof.Machine

/-! ### A range mask selects the bits between its ends -/

theorem and_rangeMask_ne_zero_iff {j₁ j₂ : Nat} (h : j₁ ≤ j₂) (h₂ : j₂ < 128) (v : CellWord) :
    v &&& rangeMask j₁ j₂ ≠ 0 ↔ ∃ j, j₁ ≤ j ∧ j ≤ j₂ ∧ v.getLsbD j = true := by
  have hbit (j : Nat) : (v &&& rangeMask j₁ j₂).getLsbD j = (v.getLsbD j && decide (j₁ ≤ j ∧ j ≤ j₂)) := by
    rw [BitVec.getLsbD_and, rangeMask_getLsbD h h₂]
  constructor
  · intro hne
    by_contra hnone
    push Not at hnone
    refine hne (BitVec.eq_of_getLsbD_eq fun j _ => ?_)
    rw [hbit]
    by_cases hj : j₁ ≤ j ∧ j ≤ j₂
    · simp [hnone j hj.1 hj.2]
    · simp [hj]
  · rintro ⟨j, h₁j, hj₂, hv⟩ h0
    have := hbit j
    simp [h0, hv, h₁j, hj₂] at this

/-! ### The loop over the cells -/

/-- Positions compare by cell, and inside one cell by bit. -/
theorem le_iff_mod_le_of_div_le {a c b : Nat} (h : a / b ≤ c / b) : a ≤ c ↔ (a / b = c / b → a % b ≤ c % b) := by
  rcases h.lt_or_eq with hlt | heq
  · exact iff_of_true (Nat.lt_of_div_lt_div hlt).le fun heq => absurd heq hlt.ne
  · have ha := Nat.div_add_mod a b
    have hc := Nat.div_add_mod c b
    rw [heq] at ha
    simp only [heq, true_imp_iff]
    omega

/-- In a cell not before that of `q₁`, the loop's lower end keeps the positions from `q₁` on. -/
theorem lowEnd_le_iff {b q₁ q : Nat} (h : q₁ / b ≤ q / b) :
    (if q / b = q₁ / b then q₁ % b else 0) ≤ q % b ↔ q₁ ≤ q := by
  rw [le_iff_mod_le_of_div_le h]
  split_ifs with hc
  · simp [hc]
  · simp [Ne.symm hc]

/-- In a cell not behind that of `q₂`, the loop's upper end keeps the positions up to `q₂`. -/
theorem le_highEnd_iff {b q q₂ : Nat} (hb : 0 < b) (h : q / b ≤ q₂ / b) :
    q % b ≤ (if q / b = q₂ / b then q₂ % b else b - 1) ↔ q ≤ q₂ := by
  rw [le_iff_mod_le_of_div_le h]
  split_ifs with hc
  · simp [hc]
  · simpa [hc] using Nat.le_sub_one_of_lt (Nat.mod_lt q hb)

theorem exists_position {b j : Nat} (hj : j < b) (c : Nat) : ∃ q, q / b = c ∧ q % b = j := by
  refine ⟨b * c + j, ?_, by rw [Nat.mul_add_mod, Nat.mod_eq_of_lt hj]⟩
  rw [Nat.mul_add_div (by omega), Nat.div_eq_of_lt hj, Nat.add_zero]

section Loop
variable {b : Nat} (hb : 0 < b) (hb' : b ≤ 128) (m : Memory) {q₁ q₂ : Nat} (hq : q₁ ≤ q₂)
include hb hb' hq

theorem probeCell_iff {c : Nat} (h₁ : q₁ / b ≤ c) (h₂ : c ≤ q₂ / b) :
    probeCell b m q₁ q₂ c = true ↔
      ∃ q, q / b = c ∧ q₁ ≤ q ∧ q ≤ q₂ ∧ Memory.bit m (q / b) (q % b) = true := by
  have hmod₁ : q₁ % b < b := Nat.mod_lt _ hb
  have hmod₂ : q₂ % b < b := Nat.mod_lt _ hb
  have hends := (le_iff_mod_le_of_div_le (h₁.trans h₂)).mp hq
  unfold probeCell
  simp only [decide_eq_true_eq]
  rw [and_rangeMask_ne_zero_iff (by split_ifs <;> omega) (by split_ifs <;> omega)]
  constructor
  · rintro ⟨j, hlo, hhi, hbit⟩
    have hj : j < b := by split_ifs at hhi <;> omega
    obtain ⟨q, rfl, rfl⟩ := exists_position hj c
    exact ⟨q, rfl, (lowEnd_le_iff h₁).mp hlo, (le_highEnd_iff hb h₂).mp hhi, hbit⟩
  · rintro ⟨q, rfl, hlo, hhi, hbit⟩
    exact ⟨q % b, (lowEnd_le_iff h₁).mpr hlo, (le_highEnd_iff hb h₂).mpr hhi, hbit⟩

theorem probeBits_iff :
    probeBits b m q₁ q₂ = true ↔ ∃ q, q₁ ≤ q ∧ q ≤ q₂ ∧ Memory.bit m (q / b) (q % b) = true := by
  have hcells : q₁ / b ≤ q₂ / b := Nat.div_le_div_right hq
  unfold probeBits
  simp only [List.any_eq_true, List.mem_range'_1]
  constructor
  · rintro ⟨c, ⟨h₁, h₂⟩, hc⟩
    obtain ⟨q, -, hbit⟩ := (probeCell_iff hb hb' m hq h₁ (by omega)).mp hc
    exact ⟨q, hbit⟩
  · rintro ⟨q, h₁, h₂, hbit⟩
    have h₁' : q₁ / b ≤ q / b := Nat.div_le_div_right h₁
    have h₂' : q / b ≤ q₂ / b := Nat.div_le_div_right h₂
    exact ⟨q / b, ⟨h₁', by omega⟩, (probeCell_iff hb hb' m hq h₁' h₂').mpr ⟨q, rfl, h₁, h₂, hbit⟩⟩

end Loop

/-- Settles O40: the keys of the range have exactly the bits that the loop reads. -/
theorem rangeProbeIsTheOrOfBitProbes : Obligations.RangeProbeIsTheOrOfBitProbes := by
  intro g m i x y hd hxy hp
  have hb := cellBits_bounds g.params
  have hb₀ : 0 < g.cellBits := by unfold Geom.cellBits; omega
  rw [rangeProbe_eq_probeBits hp, probeBits_iff hb₀ hb.2 m (bitIndex_le_bitIndex hd hxy hp)]
  constructor
  · rintro ⟨q, hxq, hqy, hbit⟩
    obtain ⟨k, hxk, hky, rfl⟩ := (exists_key_bitIndex_iff hd hxy hp).mpr ⟨hxq, hqy⟩
    exact ⟨k, hxk, hky, (bitProbe_eq_bit g m i k).trans hbit⟩
  · rintro ⟨k, hxk, hky, hbit⟩
    obtain ⟨hxq, hqy⟩ := (exists_key_bitIndex_iff hd hxy hp).mp ⟨k, hxk, hky, rfl⟩
    exact ⟨g.bitIndex i k, hxq, hqy, (bitProbe_eq_bit g m i k).symm.trans hbit⟩

/-! ### The small-word regime -/

/-- A probe whose ends lie in one cell makes one iteration. -/
theorem probeBits_of_same_cell {b q₁ q₂ : Nat} (h : q₁ / b = q₂ / b) (m : Memory) :
    probeBits b m q₁ q₂ = decide (Memory.read m (q₁ / b) &&& rangeMask (q₁ % b) (q₂ % b) ≠ 0) := by
  simp [probeBits, probeCell, ← h]

/-- Widths are powers of two, so that a cell holds a whole number of small words (41_hash_locate.md rule R260). -/
theorem wordWidth_dvd_cellBits {g : Geom} {i : Nat} (h : g.wordWidth i ≤ g.cellBits) :
    g.wordWidth i ∣ g.cellBits := by
  obtain ⟨e, he⟩ : ∃ e, g.cellBits = 2 ^ e := by
    unfold Geom.cellBits
    cases g.params.cellB with
    | b32 => exact ⟨5, rfl⟩
    | b64 => exact ⟨6, rfl⟩
    | b128 => exact ⟨7, rfl⟩
  rw [he] at h ⊢
  exact (Nat.pow_dvd_pow_iff_le_right (by omega)).mpr ((Nat.pow_le_pow_iff_right (by omega)).mp h)

theorem bitIndex_div_wordWidth (g : Geom) (i k : Nat) : g.bitIndex i k / g.wordWidth i = g.wordIndex i k := by
  unfold Geom.bitIndex
  rw [Nat.mul_comm, Nat.mul_add_div (wordWidth_pos g i), Nat.div_eq_of_lt (offset_lt_wordWidth g i k), Nat.add_zero]

theorem bitIndex_mod_wordWidth (g : Geom) (i k : Nat) : g.bitIndex i k % g.wordWidth i = g.offset i k := by
  unfold Geom.bitIndex
  rw [Nat.mul_comm, Nat.mul_add_mod, Nat.mod_eq_of_lt (offset_lt_wordWidth g i k)]

section SmallWord
variable {g : Geom} {i : Nat} (hw : g.wordWidth i ≤ g.cellBits)
include hw

/-- The cell holds the whole word (41_hash_locate.md rule R260). -/
theorem bitIndex_div_of_small (k : Nat) :
    g.bitIndex i k / g.cellBits = g.wordIndex i k / (g.cellBits / g.wordWidth i) := by
  rw [← bitIndex_div_wordWidth g i k, Nat.div_div_eq_div_mul, Nat.mul_div_cancel' (wordWidth_dvd_cellBits hw)]

/-- The bit inside the cell: the word's slot, then the offset (41_hash_locate.md rule R260). -/
theorem bitIndex_mod_of_small (k : Nat) :
    g.bitIndex i k % g.cellBits
      = (g.wordIndex i k % (g.cellBits / g.wordWidth i)) * g.wordWidth i + g.offset i k := by
  conv_lhs => rw [← Nat.mul_div_cancel' (wordWidth_dvd_cellBits hw)]
  rw [Nat.mod_mul, bitIndex_div_wordWidth, bitIndex_mod_wordWidth, Nat.add_comm, Nat.mul_comm]

end SmallWord

/-- Settles O41: both ends lie in the cell of the word, at the word's slot plus their offsets. -/
theorem smallWordProbeReadsOneCell : Obligations.SmallWordProbeReadsOneCell := by
  intro g m i x y _ hw _ hp
  have hword := wordIndex_congr hp
  have hcell : g.bitIndex i x / g.cellBits = g.bitIndex i y / g.cellBits := by
    rw [bitIndex_div_of_small hw, bitIndex_div_of_small hw, hword]
  have hlen : g.bitIndex i y % g.cellBits - g.bitIndex i x % g.cellBits = g.offset i y - g.offset i x := by
    rw [bitIndex_mod_of_small hw, bitIndex_mod_of_small hw, hword, Nat.add_sub_add_left]
  rw [rangeProbe_eq_probeBits hp, probeBits_of_same_cell hcell]
  unfold rangeMask
  rw [hlen, bitIndex_mod_of_small hw]
  rfl

end Sys2Proof.Machine
end

section
/-! Bits only go from 0 to 1 (10_state.md rule R74): memories ordered by their bits, what SETBIT and ADD add to them
(42_point.md rule R301), and the probes, which are monotone in that order. -/

namespace Sys2Proof.Machine

/-! ### The order of memories -/

/-- Every bit set in `m` is set in `m'`. -/
def Memory.Below (m m' : Memory) : Prop := ∀ c j, Memory.bit m c j = true → Memory.bit m' c j = true

theorem Memory.Below.refl (m : Memory) : Memory.Below m m := fun _ _ h => h

theorem Memory.Below.trans {m₁ m₂ m₃ : Memory} (h : Memory.Below m₁ m₂) (k : Memory.Below m₂ m₃) :
    Memory.Below m₁ m₃ := fun c j hbit => k c j (h c j hbit)

/-! ### What SETBIT and ADD write -/

theorem bit_setBit_iff {g : Geom} {m : Memory} {i k c j : Nat} :
    Memory.bit (g.setBit m i k) c j = true ↔
      Memory.bit m c j = true ∨ ((g.locate i k).1 = c ∧ (g.locate i k).2.getLsbD j = true) := by
  rw [bit_setBit, Bool.or_eq_true, Bool.and_eq_true, decide_eq_true_eq, eq_comm (a := c)]

theorem below_setBit (g : Geom) (m : Memory) (i k : Nat) : Memory.Below m (g.setBit m i k) :=
  fun _ _ h => bit_setBit_iff.mpr (.inl h)

/-- SETBIT at some layers, in any order, sets the located bit of each and no other. -/
theorem bit_foldl_setBit_iff {g : Geom} {k c j : Nat} (layers : List Nat) (m : Memory) :
    Memory.bit (layers.foldl (fun m i => g.setBit m i k) m) c j = true ↔
      Memory.bit m c j = true ∨ ∃ i ∈ layers, (g.locate i k).1 = c ∧ (g.locate i k).2.getLsbD j = true := by
  induction layers generalizing m with
  | nil => simp
  | cons i layers ih => rw [List.foldl_cons, ih, bit_setBit_iff, or_assoc, List.exists_mem_cons_iff]

/-- ADD sets the located bit of every layer and no other (42_point.md rule R301). -/
theorem bit_addKey_iff {g : Geom} {m : Memory} {k c j : Nat} :
    Memory.bit (g.addKey m k) c j = true ↔
      Memory.bit m c j = true ∨ ∃ i, i < g.layers ∧ (g.locate i k).1 = c ∧ (g.locate i k).2.getLsbD j = true := by
  unfold Geom.addKey
  simp only [bit_foldl_setBit_iff, List.mem_range]

theorem below_addKey (g : Geom) (m : Memory) (k : Nat) : Memory.Below m (g.addKey m k) :=
  fun _ _ h => bit_addKey_iff.mpr (.inl h)

theorem containsKey_iff {g : Geom} {m : Memory} {k : Nat} :
    g.containsKey m k = true ↔ ∀ i, i < g.layers → g.bitProbe m i k = true := by
  simp only [Geom.containsKey, List.all_eq_true, List.mem_range]

/-- At every layer the bit that BITPROBE reads is the one that ADD has set. -/
theorem containsKey_addKey (g : Geom) (m : Memory) (k : Nat) : g.containsKey (g.addKey m k) k = true := by
  refine containsKey_iff.mpr fun i hi => ?_
  rw [bitProbe_eq_bit, bit_addKey_iff]
  refine .inr ⟨i, hi, rfl, ?_⟩
  exact (bitMask_getLsbD (locate_position_lt g i k) _).trans (decide_eq_true rfl)

/-! ### The probes are monotone -/

theorem and_eq_zero_iff_getLsbD (v w : CellWord) :
    v &&& w = 0 ↔ ∀ j, v.getLsbD j = true → w.getLsbD j = false := by
  constructor
  · intro h j hj
    have hbit := congrArg (BitVec.getLsbD · j) h
    simpa [hj] using hbit
  · intro h
    refine BitVec.eq_of_getLsbD_eq fun j _ => ?_
    cases hj : v.getLsbD j with
    | false => simp [hj]
    | true => simp [h j hj]

section Monotone
variable {m m' : Memory} (hm : Memory.Below m m')
include hm

/-- A cell read under a mask stays nonzero. -/
theorem and_ne_zero_of_below {c : Nat} {v : CellWord} (h : Memory.read m c &&& v ≠ 0) :
    Memory.read m' c &&& v ≠ 0 := fun h0 =>
  h ((and_eq_zero_iff_getLsbD _ _).mpr fun j hj => (and_eq_zero_iff_getLsbD _ _).mp h0 j (hm c j hj))

theorem bitProbe_of_below {g : Geom} {i k : Nat} (h : g.bitProbe m i k = true) : g.bitProbe m' i k = true :=
  decide_eq_true (and_ne_zero_of_below hm (of_decide_eq_true h))

theorem probeCell_of_below {b q₁ q₂ c : Nat} (h : probeCell b m q₁ q₂ c = true) :
    probeCell b m' q₁ q₂ c = true :=
  decide_eq_true (and_ne_zero_of_below hm (of_decide_eq_true h))

theorem rangeProbe_of_below {g : Geom} {i x y : Nat} (h : g.rangeProbe m i x y = true) :
    g.rangeProbe m' i x y = true := by
  unfold Geom.rangeProbe probeBits at *
  obtain ⟨c, hc, hprobe⟩ := List.any_eq_true.mp h
  exact List.any_eq_true.mpr ⟨c, hc, probeCell_of_below hm hprobe⟩

theorem containsKey_of_below {g : Geom} {k : Nat} (h : g.containsKey m k = true) : g.containsKey m' k = true :=
  containsKey_iff.mpr fun i hi => bitProbe_of_below hm (containsKey_iff.mp h i hi)

theorem hits_of_below {g : Geom} {lo hi i : Nat} {c : Check} (h : g.hits m lo hi i c = true) :
    g.hits m' lo hi i c = true := by
  unfold Geom.hits at *
  obtain ⟨hinside, hprobe⟩ := (Bool.and_eq_true _ _).mp h
  exact (Bool.and_eq_true _ _).mpr ⟨hinside, rangeProbe_of_below hm hprobe⟩

/-- A check that is split stays split. -/
theorem children_subset_of_below (g : Geom) (lo hi i : Nat) (c : Check) :
    g.children m lo hi i c ⊆ g.children m' lo hi i c := by
  unfold Geom.children
  split
  case isTrue h =>
    obtain ⟨hcovering, hprobe⟩ := (Bool.and_eq_true _ _).mp h
    rw [if_pos ((Bool.and_eq_true _ _).mpr ⟨hcovering, bitProbe_of_below hm hprobe⟩)]
    exact List.Subset.refl _
  case isFalse => exact List.nil_subset _

/-- The main loop is monotone in the memory and in the frontier together: a fuller memory splits more checks. -/
theorem refLoop_of_below {g : Geom} {lo hi n : Nat} {checks checks' : List Check} (hsub : checks ⊆ checks')
    (h : g.refLoop m lo hi n checks = true) : g.refLoop m' lo hi n checks' = true := by
  induction n generalizing checks checks' with
  | zero => exact h
  | succ i ih =>
    rw [Geom.refLoop, Bool.or_eq_true] at h ⊢
    refine h.imp (fun hhit => ?_) (ih fun d hd => ?_)
    · obtain ⟨c, hc, hhit⟩ := List.any_eq_true.mp hhit
      exact List.any_eq_true.mpr ⟨c, hsub hc, hits_of_below hm hhit⟩
    · obtain ⟨c, hc, hd⟩ := List.mem_flatMap.mp hd
      exact List.mem_flatMap.mpr ⟨c, hsub hc, children_subset_of_below hm g lo hi i c hd⟩

theorem overlapsRef_of_below {g : Geom} {lo hi : Nat} (h : g.overlapsRef m lo hi = true) :
    g.overlapsRef m' lo hi = true :=
  refLoop_of_below hm (List.Subset.refl _) h

end Monotone

end Sys2Proof.Machine
end

section
/-! What the steps do to the filter (10_state.md rule R74): every host access, every phase step but those of a clearing
pass and every command but a successful CONFIG keeps the configuration, and keeps the cells or is an ADD. -/

namespace Sys2Proof.Machine

/-- The filter of `t` is the filter of `s`: parameters, active configuration, CFG_VALID and cells. -/
structure FilterKept (s t : State) : Prop where
  params : t.params = s.params
  act : t.act = s.act
  cfgValid : t.status.cfgValid = s.status.cfgValid
  cells : t.cells = s.cells

/-- The filter of `t` is the filter of `s` with bits gone from 0 to 1 at most. -/
structure FilterGrows (s t : State) : Prop where
  params : t.params = s.params
  act : t.act = s.act
  cfgValid : t.status.cfgValid = s.status.cfgValid
  cells : Memory.Below s.cells t.cells

theorem FilterKept.refl (s : State) : FilterKept s s := ⟨rfl, rfl, rfl, rfl⟩

theorem FilterKept.trans {s t u : State} (h : FilterKept s t) (k : FilterKept t u) : FilterKept s u :=
  ⟨k.params.trans h.params, k.act.trans h.act, k.cfgValid.trans h.cfgValid, k.cells.trans h.cells⟩

theorem FilterKept.grows {s t : State} (h : FilterKept s t) : FilterGrows s t :=
  ⟨h.params, h.act, h.cfgValid, h.cells ▸ Memory.Below.refl _⟩

theorem FilterGrows.refl (s : State) : FilterGrows s s := (FilterKept.refl s).grows

theorem FilterGrows.trans {s t u : State} (h : FilterGrows s t) (k : FilterGrows t u) : FilterGrows s u :=
  ⟨k.params.trans h.params, k.act.trans h.act, k.cfgValid.trans h.cfgValid, h.cells.trans k.cells⟩

theorem FilterGrows.geom {s t : State} (h : FilterGrows s t) (hash : HashFn) : t.geom hash = s.geom hash := by
  unfold State.geom
  rw [h.params, h.act]

/-! ### The named updates -/

theorem filterKept_setSeq (s : State) (q : Sequencer) : FilterKept s (s.setSeq q) := ⟨rfl, rfl, rfl, rfl⟩

theorem filterKept_setInputs (s : State) (l : List HostOp) : FilterKept s (s.setInputs l) := ⟨rfl, rfl, rfl, rfl⟩

theorem filterKept_setRdata (s : State) (v : Word) : FilterKept s (s.setRdata v) := ⟨rfl, rfl, rfl, rfl⟩

theorem filterKept_pollStatus (s : State) : FilterKept s (pollStatus s) := filterKept_setRdata s _

theorem filterKept_drawLatency (s : State) : FilterKept s s.drawLatency := ⟨rfl, rfl, rfl, rfl⟩

theorem filterKept_launch (v : Word) (s : State) : FilterKept s (launch v s) := ⟨rfl, rfl, rfl, rfl⟩

theorem filterKept_complete (r : Bool) (s : State) : FilterKept s (complete r s) := ⟨rfl, rfl, rfl, rfl⟩

theorem filterKept_raiseError (e : ErrorCode) (d : Word) (s : State) : FilterKept s (raiseError e d s) :=
  ⟨rfl, rfl, rfl, rfl⟩

theorem filterKept_runIllegal (v : Word) (s : State) : FilterKept s (runIllegal v s) :=
  (filterKept_launch v s).trans (filterKept_raiseError _ _ _)

theorem filterGrows_setCells {s : State} {m : Memory} (h : Memory.Below s.cells m) : FilterGrows s (s.setCells m) :=
  ⟨rfl, rfl, rfl, h⟩

/-! ### The host port -/

theorem filterKept_writeCmd (v : Word) (s : State) : FilterKept s (writeCmd v s) := by
  unfold writeCmd
  split
  · exact ⟨rfl, rfl, rfl, rfl⟩
  · exact (filterKept_launch v s).trans (filterKept_drawLatency _)

/-- A host write to any register keeps the filter: none of the registers is a part of it (10_state.md rule R43). -/
theorem filterKept_writeReg (v : Word) (s : State) (r : Reg) : FilterKept s (writeReg v s r) := by
  cases r
  case cmd => exact filterKept_writeCmd v s
  all_goals exact ⟨rfl, rfl, rfl, rfl⟩

theorem filterKept_applyAccess (s : State) (acc : Option Access) : FilterKept s (applyAccess s acc) := by
  unfold applyAccess hostWrite
  split
  · exact .refl s
  · exact filterKept_setRdata s _
  · split
    · exact filterKept_writeReg _ s _
    · exact .refl s

/-- While a command runs, the host does not reach the sequencing registers (60_exceptions.md rule R453). -/
theorem applyAccess_seq_of_busy {s : State} (hb : s.status.busy = true) (acc : Option Access) :
    (applyAccess s acc).seq = s.seq := by
  unfold applyAccess hostWrite
  split
  · rfl
  · rfl
  · split
    case h_1 r _ =>
      cases r
      case cmd => simp only [writeReg, writeCmd, if_pos hb]
      all_goals rfl
    case h_2 => rfl

/-! ### The engine -/

theorem filterKept_startConfig (s : State) : FilterKept s (startConfig s) := by
  unfold startConfig
  split
  · exact filterKept_raiseError _ _ _
  · exact filterKept_setSeq _ _

theorem filterKept_startPoint (s : State) : FilterKept s (startPoint s) := by
  unfold startPoint
  split
  · exact filterKept_raiseError _ _ _
  · exact filterKept_setSeq _ _

theorem filterKept_startRange (h : HashFn) (s : State) : FilterKept s (startRange h s) := by
  unfold startRange
  split
  · exact filterKept_raiseError _ _ _
  · exact filterKept_setSeq _ _

/-- The first step after launch touches no cell, whatever the word (60_exceptions.md rule R456). -/
theorem filterKept_startStep (h : HashFn) (s : State) : FilterKept s (startStep h s) := by
  unfold startStep
  split
  case h_1 => exact filterKept_raiseError _ _ _
  case h_2 => exact filterKept_startConfig s
  case h_3 => exact filterKept_startPoint s
  case h_4 => exact filterKept_startPoint s
  case h_5 => exact filterKept_startRange h s

theorem filterKept_nextLayer (g : Geom) (r : Bool) (s : State) : FilterKept s (nextLayer g r s) := by
  unfold nextLayer
  split
  · exact filterKept_complete _ _
  · exact filterKept_setSeq _ _

theorem filterKept_containsLayer (g : Geom) (s : State) : FilterKept s (containsLayer g s) := by
  unfold containsLayer
  split
  · exact filterKept_nextLayer _ _ _
  · exact filterKept_complete _ _

theorem filterGrows_addLayer (g : Geom) (s : State) : FilterGrows s (addLayer g s) :=
  (filterGrows_setCells (below_setBit _ _ _ _)).trans (filterKept_nextLayer _ _ _).grows

theorem filterKept_rqSegStep (s : State) : FilterKept s (rqSegStep s) := by
  unfold rqSegStep
  split <;> exact filterKept_setSeq _ _

theorem filterKept_rqSwapStep (s : State) : FilterKept s (rqSwapStep s) := by
  unfold rqSwapStep
  split
  · exact filterKept_complete _ _
  · exact filterKept_setSeq _ _

theorem filterKept_coveringItem {g : Geom} {lo hi i x xe : Nat} {s t : State}
    (ht : coveringItem g lo hi i x xe s = .next t) : FilterKept s t := by
  unfold coveringItem at ht
  split_ifs at ht
  · split at ht
    · obtain rfl := Host.Outcome.next.inj ht
      exact filterKept_setSeq _ _
    · cases ht
  · obtain rfl := Host.Outcome.next.inj ht
    exact filterKept_setSeq _ _

theorem filterKept_containedItem (g : Geom) (i x e : Nat) (s : State) : FilterKept s (containedItem g i x e s) := by
  unfold containedItem
  split
  · exact filterKept_complete _ _
  · exact filterKept_setSeq _ _

theorem filterKept_rqItemStep {g : Geom} {lo hi : Nat} {s t : State} (ht : rqItemStep g lo hi s = .next t) :
    FilterKept s t := by
  unfold rqItemStep at ht
  dsimp only at ht
  split_ifs at ht
  · obtain rfl := Host.Outcome.next.inj ht
    exact filterKept_setSeq _ _
  · exact filterKept_coveringItem ht
  · obtain rfl := Host.Outcome.next.inj ht
    exact filterKept_containedItem _ _ _ _ _

theorem filterGrows_ptLayerStep {h : HashFn} {s t : State} (ht : ptLayerStep h s = .next t) : FilterGrows s t := by
  unfold ptLayerStep at ht
  split_ifs at ht
  · obtain rfl := Host.Outcome.next.inj ht
    exact filterGrows_addLayer _ _
  · obtain rfl := Host.Outcome.next.inj ht
    exact (filterKept_containsLayer _ _).grows

/-- A phase step outside the clearing pass: only the PT_LAYER step of ADD writes a cell. -/
theorem filterGrows_phaseStep {h : HashFn} {s t : State} (hz : s.seq.phase ≠ .cfgZero)
    (ht : phaseStep h s = .next t) : FilterGrows s t := by
  unfold phaseStep at ht
  split at ht
  case h_1 => exact Host.Outcome.next.inj ht ▸ .refl s
  case h_2 hphase => exact absurd hphase hz
  case h_3 => exact filterGrows_ptLayerStep ht
  case h_4 => exact Host.Outcome.next.inj ht ▸ (filterKept_rqSegStep s).grows
  case h_5 => exact (filterKept_rqItemStep ht).grows
  case h_6 => exact Host.Outcome.next.inj ht ▸ (filterKept_rqSwapStep s).grows

theorem filterGrows_engineStep {s t : State} (hz : s.seq.fresh = false → s.seq.phase ≠ .cfgZero)
    (ht : engineStep s = .next t) : FilterGrows s t := by
  unfold engineStep at ht
  cases hf : s.seq.fresh with
  | true =>
    rw [engineStepWith_of_fresh hf] at ht
    exact Host.Outcome.next.inj ht ▸ (filterKept_startStep _ s).grows
  | false =>
    rw [engineStepWith_of_not_fresh hf] at ht
    exact filterGrows_phaseStep (hz hf) ht

theorem filterGrows_clockCycle {acc : Option Access} {s t : State}
    (hz : s.seq.fresh = false → s.seq.phase ≠ .cfgZero) (ht : clockCycle acc s = .next t) : FilterGrows s t := by
  have haccess := (filterKept_applyAccess s acc).grows
  obtain ⟨-, rfl⟩ | ⟨-, -, rfl⟩ | ⟨hb, -, u, hu, rfl⟩ := clockCycle_next ht
  · exact haccess
  · exact haccess.trans ⟨rfl, rfl, rfl, Memory.Below.refl _⟩
  · have hengine : FilterGrows (applyAccess s acc) u :=
      filterGrows_engineStep (by rwa [applyAccess_seq_of_busy hb]) hu
    exact (haccess.trans hengine).trans (filterKept_drawLatency u).grows

/-! ### The commands, run whole -/

theorem filterGrows_runAdd {h : HashFn} {s t : State} (ht : runAdd h s = .next t) : FilterGrows s t := by
  obtain ⟨e, -, rfl⟩ | ⟨-, -, rfl⟩ := runAdd_next ht
  · exact (filterKept_raiseError _ _ _).grows
  · exact (filterGrows_setCells (below_addKey _ _ _)).trans (filterKept_complete _ _).grows

theorem filterKept_runContains {h : HashFn} {s t : State} (ht : runContains h s = .next t) : FilterKept s t := by
  obtain ⟨e, -, rfl⟩ | ⟨-, -, rfl⟩ := runContains_next ht
  · exact filterKept_raiseError _ _ _
  · exact filterKept_complete _ _

theorem filterKept_runOverlaps {h : HashFn} {s t : State} (ht : runOverlaps h s = .next t) : FilterKept s t := by
  obtain ⟨e, -, rfl⟩ | ⟨-, -, rfl⟩ := runOverlaps_next ht
  · exact filterKept_raiseError _ _ _
  · exact filterKept_complete _ _

/-- Only a CONFIG whose parameters are valid takes a bit back. -/
theorem filterGrows_exec {i : Instr} {s t : State}
    (hconfig : i = .config → validate s.params s.cfgSize s.cfgL s.cfgDelta ≠ 0) (ht : exec i s = .next t) :
    FilterGrows s t := by
  cases i with
  | config =>
    rw [exec_config_of_invalid (hconfig rfl)] at ht
    obtain rfl := Host.Outcome.next.inj ht
    exact ((filterKept_launch _ s).trans (filterKept_raiseError _ _ _)).grows
  | add => exact (filterKept_launch _ s).grows.trans (filterGrows_runAdd ht)
  | contains => exact ((filterKept_launch _ s).trans (filterKept_runContains ht)).grows
  | overlaps => exact ((filterKept_launch _ s).trans (filterKept_runOverlaps ht)).grows

/-! ### The machine -/

/-- What a step that clears no filter is not: a reset, a step of a clearing pass, a successful CONFIG run whole. -/
theorem clearsFilter_eq_false {s : State} (h : clearsFilter s = false) :
    rstNow s = false ∧ (s.seq.fresh = false → s.seq.phase ≠ .cfgZero)
      ∧ ∀ v rest, s.inputs = .issue v :: rest → s.status.busy = false → decode v = .command .config →
          validate s.params s.cfgSize s.cfgL s.cfgDelta ≠ 0 := by
  unfold clearsFilter at h
  rw [Bool.or_eq_false_iff, Bool.or_eq_false_iff] at h
  obtain ⟨⟨hrst, hclearing⟩, hissue⟩ := h
  refine ⟨hrst, fun hf hphase => ?_, fun v rest hin hb hv hvalid => ?_⟩
  · simp [hf, hphase] at hclearing
  · simp [hin, hb, hv, hvalid] at hissue

theorem filterGrows_step {s t : State} (hclear : clearsFilter s = false) (ht : step s = .next t) :
    FilterGrows s t := by
  obtain ⟨hrst, hz, hconfig⟩ := clearsFilter_eq_false hclear
  have hinputs (l : List HostOp) : FilterGrows s (s.setInputs l) := (filterKept_setInputs s l).grows
  have hcycle (l : List HostOp) (acc : Option Access) (ht : clockCycle acc (s.setInputs l) = .next t) :
      FilterGrows s t := (hinputs l).trans (filterGrows_clockCycle (s := s.setInputs l) hz ht)
  obtain ⟨-, ht⟩ | ⟨acc, rest, -, ht⟩ | ⟨acc, rest, hin, -⟩ | ⟨rest, -, -, ht⟩ | ⟨rest, -, -, ht⟩ |
    ⟨v, rest, -, -, ht⟩ | ⟨v, rest, i, u, hin, hb, hv, hu, rfl⟩ | ⟨v, rest, why, -, -, -, rfl⟩ := step_next ht
  · exact filterGrows_clockCycle hz ht
  · exact hcycle _ _ ht
  · simp [rstNow, hin] at hrst
  · exact filterGrows_clockCycle hz ht
  · exact hcycle _ _ ht
  · exact hcycle _ _ ht
  · have hexec : FilterGrows (s.setInputs rest) u :=
      filterGrows_exec (by rintro rfl; exact hconfig v rest hin hb hv) hu
    exact ((hinputs _).trans hexec).trans (filterKept_pollStatus u).grows
  · exact (hinputs _).trans ((filterKept_runIllegal _ _).trans (filterKept_pollStatus _)).grows

theorem Later.filterGrows {s t : State} (h : Later s t) : FilterGrows s t := by
  induction h with
  | refl => exact .refl _
  | step _ hclear ht ih => exact ih.trans (filterGrows_step hclear ht)

end Sys2Proof.Machine
end

section
/-! What CONTAINS and OVERLAPS answer along a run (42_point.md rules R305, R306): an answer 1 depends on the filter
alone, and a filter that grows keeps it. -/

namespace Sys2Proof.Machine

/-- The filter of `s` answers 1 to CONTAINS of the operand `a`. -/
structure ContainsFinds (s : State) (a : Word) : Prop where
  cfgValid : s.status.cfgValid = true
  fits : keyFits s.params a = true
  addressable : (s.geom Config.hash).addressable = true
  found : (s.geom Config.hash).containsKey s.cells (keyOf s.params a) = true

/-- The filter of `s` answers 1 to OVERLAPS of the operands `a` and `b`. -/
structure OverlapsFinds (s : State) (a b : Word) : Prop where
  cfgValid : s.status.cfgValid = true
  fitsLo : keyFits s.params a = true
  fitsHi : keyFits s.params b = true
  ordered : keyOf s.params a ≤ keyOf s.params b
  addressable : (s.geom Config.hash).addressable = true
  found : (s.geom Config.hash).overlapsRef s.cells (keyOf s.params a) (keyOf s.params b) = true

/-! ### The answers are those of the commands -/

theorem containsFinds_of_result {s t : State} (ht : exec .contains s = .next t) (hres : t.status.result = true) :
    ContainsFinds s s.opa := by
  obtain ⟨e, -, rfl⟩ | ⟨hpre, haddr, rfl⟩ := runContains_next (s := launch (encode .contains) s) ht
  · simp at hres
  · obtain ⟨hcfg, hfits⟩ := (pointError_none_iff _).mp hpre
    exact ⟨hcfg, hfits, haddr, hres⟩

theorem ContainsFinds.answers {s : State} {a : Word} (h : ContainsFinds s a) (b : Word) :
    ∃ w, exec .contains (withOperands s a b) = .next w ∧ w.status.err = false ∧ w.status.result = true := by
  have hpre : pointError (launch (encode .contains) (withOperands s a b)) = none :=
    (pointError_none_iff _).mpr ⟨h.cfgValid, h.fits⟩
  obtain ⟨w, hw⟩ := runContains_answers (s := launch (encode .contains) (withOperands s a b)) h.addressable
  refine ⟨w, hw, ?_⟩
  obtain ⟨e, he, -⟩ | ⟨-, -, rfl⟩ := runContains_next hw
  · simp [hpre] at he
  · exact ⟨rfl, h.found⟩

theorem overlapsFinds_of_result {s t : State} (ht : exec .overlaps s = .next t) (hres : t.status.result = true) :
    OverlapsFinds s s.opa s.opb := by
  obtain ⟨e, -, rfl⟩ | ⟨hpre, haddr, rfl⟩ := runOverlaps_next (s := launch (encode .overlaps) s) ht
  · simp at hres
  · obtain ⟨hcfg, hlo, hhi, hord⟩ := (rangeError_none_iff _).mp hpre
    exact ⟨hcfg, hlo, hhi, hord, haddr, hres⟩

theorem OverlapsFinds.answers {s : State} {a b : Word} (h : OverlapsFinds s a b) :
    ∃ w, exec .overlaps (withOperands s a b) = .next w ∧ w.status.err = false ∧ w.status.result = true := by
  have hpre : rangeError (launch (encode .overlaps) (withOperands s a b)) = none :=
    (rangeError_none_iff _).mpr ⟨h.cfgValid, h.fitsLo, h.fitsHi, h.ordered⟩
  obtain ⟨w, hw⟩ := runOverlaps_answers (s := launch (encode .overlaps) (withOperands s a b)) h.addressable
  refine ⟨w, hw, ?_⟩
  obtain ⟨e, he, -⟩ | ⟨-, -, rfl⟩ := runOverlaps_next hw
  · simp [hpre] at he
  · exact ⟨rfl, h.found⟩

/-- A successful ADD leaves a filter that finds its key. -/
theorem containsFinds_of_add {s t : State} (ht : exec .add s = .next t) (herr : t.status.err = false) :
    ContainsFinds t s.opa := by
  obtain ⟨e, -, rfl⟩ | ⟨hpre, haddr, rfl⟩ := runAdd_next (s := launch (encode .add) s) ht
  · simp at herr
  · obtain ⟨hcfg, hfits⟩ := (pointError_none_iff _).mp hpre
    exact ⟨hcfg, hfits, haddr, containsKey_addKey _ _ _⟩

/-! ### A filter that grows keeps its answers -/

section Grows
variable {s u : State} (hgrows : FilterGrows s u)
include hgrows

theorem ContainsFinds.of_grows {a : Word} (h : ContainsFinds s a) : ContainsFinds u a where
  cfgValid := hgrows.cfgValid.trans h.cfgValid
  fits := hgrows.params ▸ h.fits
  addressable := hgrows.geom _ ▸ h.addressable
  found := by
    rw [hgrows.geom, hgrows.params]
    exact containsKey_of_below hgrows.cells h.found

theorem OverlapsFinds.of_grows {a b : Word} (h : OverlapsFinds s a b) : OverlapsFinds u a b where
  cfgValid := hgrows.cfgValid.trans h.cfgValid
  fitsLo := hgrows.params ▸ h.fitsLo
  fitsHi := hgrows.params ▸ h.fitsHi
  ordered := hgrows.params ▸ h.ordered
  addressable := hgrows.geom _ ▸ h.addressable
  found := by
    rw [hgrows.geom, hgrows.params]
    exact overlapsRef_of_below hgrows.cells h.found

end Grows

/-- Settles O44: ADD sets the bits that CONTAINS reads, and no later step takes one back. -/
theorem addedKeyIsContained : Obligations.AddedKeyIsContained := by
  intro s t u hadd herr hlater
  exact ((containsFinds_of_add hadd herr).of_grows hlater.filterGrows).answers u.opb

/-- Settles O46: an answer 1 shows that the filter finds the operands, and a grown filter finds them still. -/
theorem answersAreMonotone : Obligations.AnswersAreMonotone := by
  intro s t u i hi ht hres hlater
  rcases hi with rfl | rfl
  · obtain ⟨w, hw, -, hres'⟩ :=
      ((containsFinds_of_result ht hres).of_grows hlater.filterGrows).answers s.opb
    exact ⟨w, hw, hres'⟩
  · obtain ⟨w, hw, -, hres'⟩ := ((overlapsFinds_of_result ht hres).of_grows hlater.filterGrows).answers
    exact ⟨w, hw, hres'⟩

end Sys2Proof.Machine
end

section
/-! Aligned intervals and checks (43_range.md rules R352 to R358, R391): `alignw x s` is the start of the bit span of `x`,
and a split step keeps the width, the tag's condition and the keys of [lo, hi]. -/

namespace Sys2Proof.Machine

/-! ### Aligned spans -/

theorem alignw_eq_div_mul (x s : Nat) : alignw x s = x / 2 ^ s * 2 ^ s := by
  have hsplit := Nat.div_add_mod' x (2 ^ s)
  unfold alignw
  omega

theorem two_pow_dvd_alignw (x s : Nat) : 2 ^ s ∣ alignw x s := ⟨x / 2 ^ s, by rw [alignw_eq_div_mul, Nat.mul_comm]⟩

theorem alignw_le (x s : Nat) : alignw x s ≤ x := Nat.sub_le _ _

theorem lt_alignw_add (x s : Nat) : x < alignw x s + 2 ^ s := by
  rw [alignw_eq_div_mul]
  exact Nat.lt_div_mul_add (Nat.two_pow_pos s)

theorem le_alignw_of_dvd {a x s : Nat} (ha : 2 ^ s ∣ a) (hax : a ≤ x) : a ≤ alignw x s :=
  Nat.le_of_lt_add_of_dvd (lt_of_le_of_lt hax (lt_alignw_add x s)) ha (two_pow_dvd_alignw x s)

/-- A whole span fits between two multiples of its width. -/
theorem add_le_of_dvd_of_lt {a b n : Nat} (ha : n ∣ a) (hb : n ∣ b) (h : a < b) : a + n ≤ b :=
  Nat.le_of_lt_add_of_dvd (Nat.add_lt_add_right h n) (ha.add (dvd_refl n)) hb

theorem alignw_add_le_of_dvd {b x s : Nat} (hb : 2 ^ s ∣ b) (hxb : x < b) : alignw x s + 2 ^ s ≤ b :=
  add_le_of_dvd_of_lt (two_pow_dvd_alignw x s) hb (lt_of_le_of_lt (alignw_le x s) hxb)

/-- The span that holds a key starts at the key aligned down. -/
theorem eq_alignw_of_dvd {a x s : Nat} (ha : 2 ^ s ∣ a) (hax : a ≤ x) (hxa : x < a + 2 ^ s) : a = alignw x s :=
  le_antisymm (le_alignw_of_dvd ha hax)
    (Nat.add_le_add_iff_right.mp (alignw_add_le_of_dvd (ha.add (dvd_refl _)) hxa))

theorem alignw_of_dvd {x s : Nat} (h : 2 ^ s ∣ x) : alignw x s = x :=
  (eq_alignw_of_dvd h le_rfl (Nat.lt_add_of_pos_right (Nat.two_pow_pos s))).symm

/-- Settles O35: a bit span that overhangs the query below holds `lo`, one that overhangs it above holds `hi`. -/
theorem atMostTwoChecksAreCovering : Obligations.AtMostTwoChecksAreCovering := by
  intro lo hi a s hle hmod hahi hlo hcov
  have ha : 2 ^ s ∣ a := Nat.dvd_of_mod_eq_zero hmod
  have hpos := Nat.two_pow_pos s
  refine hcov.imp (fun hbelow => ?_) (fun habove => ?_)
  · exact eq_alignw_of_dvd ha (by omega) (by omega)
  · exact eq_alignw_of_dvd ha hahi (by omega)

/-! ### The two halves of a check -/

/-- The key lies in the check. -/
def Check.holds (c : Check) (k : Nat) : Prop := c.low ≤ k ∧ k ≤ c.high

section Halves
variable {lo hi w : Nat} {c : Check}

/-- The midpoint halves the check (43_range.md rule R354). -/
theorem Check.dyadic.mid_eq (h : c.dyadic (w + 1)) : c.mid = c.low + 2 ^ w ∧ c.mid + 2 ^ w = c.high + 1 := by
  obtain ⟨-, hhigh⟩ := h
  have hpos := Nat.two_pow_pos w
  unfold Check.mid
  rw [Nat.pow_succ] at hhigh
  omega

theorem Check.dyadic.lower (h : c.dyadic (w + 1)) (t : Tag) : Check.dyadic w ⟨c.low, c.mid - 1, t⟩ := by
  obtain ⟨hmid, -⟩ := h.mid_eq
  have hdvd : 2 ^ w ∣ c.low := (pow_dvd_pow 2 (Nat.le_succ w)).trans (Nat.dvd_of_mod_eq_zero h.1)
  exact ⟨Nat.mod_eq_zero_of_dvd hdvd, by simp only [hmid]⟩

theorem Check.dyadic.upper (h : c.dyadic (w + 1)) (t : Tag) : Check.dyadic w ⟨c.mid, c.high, t⟩ := by
  obtain ⟨hmid, hhigh⟩ := h.mid_eq
  have hdvd : 2 ^ w ∣ c.low := (pow_dvd_pow 2 (Nat.le_succ w)).trans (Nat.dvd_of_mod_eq_zero h.1)
  refine ⟨Nat.mod_eq_zero_of_dvd (hmid ▸ hdvd.add (dvd_refl _)), ?_⟩
  show c.high = c.mid + 2 ^ w - 1
  omega

/-- A check that meets its tag's condition meets the query (43_range.md rule R358). -/
theorem Check.meets (h : c.dyadic w) (htag : c.tagOk lo hi) (hle : lo ≤ hi) : c.low ≤ hi ∧ lo ≤ c.high := by
  obtain ⟨-, hhigh⟩ := h
  have hpos := Nat.two_pow_pos w
  unfold Check.tagOk at htag
  split at htag <;> omega

/-! ### SPLIT1 -/

/-- SPLIT1 returns halves of the check (43_range.md rule R355). -/
theorem eq_half_of_mem_split1 {d : Check} (hd : d ∈ split1 lo hi c) :
    d = ⟨c.low, c.mid - 1, d.loc⟩ ∨ d = ⟨c.mid, c.high, d.loc⟩ := by
  unfold split1 at hd
  grind

/-- A NotYetSplit check is alone (43_range.md rule R358). -/
theorem split1_eq_singleton {d : Check} (hd : d ∈ split1 lo hi c) (hloc : d.loc = .notYetSplit) :
    split1 lo hi c = [d] := by
  unfold split1 at hd ⊢
  grind

/-- Each case of SPLIT1 gives its halves tags that they meet: the bound it compares with the midpoint is the tag's
(43_range.md rule R358). -/
theorem tagOk_of_mem_split1 {d : Check} (hc : c.dyadic (w + 1)) (htag : c.tagOk lo hi) (hd : d ∈ split1 lo hi c) :
    d.tagOk lo hi := by
  obtain ⟨hmid, hhigh⟩ := hc.mid_eq
  have hpos := Nat.two_pow_pos w
  obtain ⟨low, high, loc⟩ := c
  unfold Check.tagOk at htag
  cases loc <;> dsimp only [split1] at hd htag hmid hhigh <;> grind [Check.tagOk]

theorem dyadic_of_mem_split1 {d : Check} (hc : c.dyadic (w + 1)) (hd : d ∈ split1 lo hi c) : d.dyadic w := by
  rcases eq_half_of_mem_split1 hd with h | h
  · exact h ▸ hc.lower d.loc
  · exact h ▸ hc.upper d.loc

/-- The half that a key of the query lies in is returned, with some tag (43_range.md rule R359). -/
theorem half_mem_split1 (hc : c.dyadic (w + 1)) {k : Nat} (hlo : lo ≤ k) (hhi : k ≤ hi) :
    (k < c.mid → ∃ t, ⟨c.low, c.mid - 1, t⟩ ∈ split1 lo hi c)
      ∧ (c.mid ≤ k → ∃ t, ⟨c.mid, c.high, t⟩ ∈ split1 lo hi c) := by
  obtain ⟨hmid, -⟩ := hc.mid_eq
  have hpos := Nat.two_pow_pos w
  unfold split1
  constructor <;> intro hk <;> split <;> split_ifs <;> simp <;> omega

/-- SPLIT1 drops no key of the query and adds none (43_range.md rule R359). -/
theorem exists_mem_split1_holds_iff (hc : c.dyadic (w + 1)) {k : Nat} (hlo : lo ≤ k) (hhi : k ≤ hi) :
    (∃ d ∈ split1 lo hi c, d.holds k) ↔ c.holds k := by
  obtain ⟨hmid, hhigh⟩ := hc.mid_eq
  have hpos := Nat.two_pow_pos w
  obtain ⟨hlower, hupper⟩ := half_mem_split1 hc hlo hhi
  constructor
  · rintro ⟨d, hd, hk⟩
    unfold Check.holds at *
    rcases eq_half_of_mem_split1 hd with h | h <;> rw [h] at hk <;> dsimp only at hk <;> omega
  · rintro ⟨hlow, hhigh'⟩
    rcases lt_or_ge k c.mid with hk | hk
    · obtain ⟨t, ht⟩ := hlower hk
      exact ⟨_, ht, hlow, Nat.le_sub_one_of_lt hk⟩
    · obtain ⟨t, ht⟩ := hupper hk
      exact ⟨_, ht, hk, hhigh'⟩

end Halves

/-- Settles O33: the halves of a check are dyadic, and SPLIT1 keeps those that meet their tag's condition. -/
theorem splitKeepsTheTagConditions : Obligations.SplitKeepsTheTagConditions := by
  refine ⟨fun W lo hi hle hhi => ⟨⟨Nat.zero_mod _, by simp⟩, Nat.zero_le lo, Nat.le_sub_one_of_lt hhi⟩, ?_⟩
  intro lo hi w c hle hc htag d hd
  have hdy := dyadic_of_mem_split1 hc hd
  have hdtag := tagOk_of_mem_split1 hc htag hd
  obtain ⟨hlow, hhigh⟩ := Check.meets hdy hdtag hle
  exact ⟨hdy, hdtag, hlow, hhigh, split1_eq_singleton hd⟩

end Sys2Proof.Machine
end

section
/-! OVERLAPS_REF key by key (43_range.md rules R359 to R369): splitting a frontier keeps the keys of [lo, hi] that its
checks hold, so that the main loop answers whether one of these keys has every bit set down to a layer at which its bit
span lies in [lo, hi]. -/

namespace Sys2Proof.Machine

/-! ### The checks of a frontier and the keys they hold -/

/-- The checks are dyadic intervals of width 2^w that meet their tags' conditions. -/
def ChecksOk (lo hi w : Nat) (cs : List Check) : Prop := ∀ c ∈ cs, c.dyadic w ∧ c.tagOk lo hi

/-- Some check holds the key. -/
def Covers (cs : List Check) (k : Nat) : Prop := ∃ c ∈ cs, c.holds k

section Checks
variable {lo hi : Nat}

theorem checksOk_singleton {w : Nat} {c : Check} : ChecksOk lo hi w [c] ↔ c.dyadic w ∧ c.tagOk lo hi := by
  simp [ChecksOk]

theorem covers_singleton {c : Check} {k : Nat} : Covers [c] k ↔ c.holds k := by simp [Covers]

/-- What a list of checks becomes, check by check, holds the keys that the single checks hand on. -/
theorem covers_flatMap {cs : List Check} {f : Check → List Check} {k : Nat} :
    Covers (cs.flatMap f) k ↔ ∃ c ∈ cs, Covers (f c) k := by
  simp only [Covers, List.mem_flatMap]
  constructor
  · rintro ⟨d, ⟨c, hc, hd⟩, hk⟩
    exact ⟨c, hc, d, hd, hk⟩
  · rintro ⟨c, hc, d, hd, hk⟩
    exact ⟨d, ⟨c, hc, hd⟩, hk⟩

theorem ChecksOk.split1 {w : Nat} {cs : List Check} (h : ChecksOk lo hi (w + 1) cs) :
    ChecksOk lo hi w (cs.flatMap (split1 lo hi)) := by
  intro d hd
  obtain ⟨c, hc, hd⟩ := List.mem_flatMap.mp hd
  obtain ⟨hdy, htag⟩ := h c hc
  exact ⟨dyadic_of_mem_split1 hdy hd, tagOk_of_mem_split1 hdy htag hd⟩

theorem ChecksOk.advance {w n : Nat} {cs : List Check} (h : ChecksOk lo hi (w + n) cs) :
    ChecksOk lo hi w (advance lo hi n cs) := by
  induction n generalizing cs with
  | zero => exact h
  | succ n ih => exact ih (ChecksOk.split1 h)

/-- Split steps keep the keys of the query (43_range.md rule R359). -/
theorem covers_advance_iff {w n k : Nat} {cs : List Check} (h : ChecksOk lo hi (w + n) cs) (hlo : lo ≤ k)
    (hhi : k ≤ hi) : Covers (advance lo hi n cs) k ↔ Covers cs k := by
  induction n generalizing cs with
  | zero => rfl
  | succ n ih =>
    rw [advance, ih h.split1, covers_flatMap]
    exact exists_congr fun c => and_congr_right fun hc => exists_mem_split1_holds_iff (h c hc).1 hlo hhi

theorem alignw_shiftRight (k s : Nat) : alignw k s >>> s = k >>> s := by
  rw [Nat.shiftRight_eq_div_pow, Nat.shiftRight_eq_div_pow, alignw_eq_div_mul, Nat.mul_div_cancel _ (Nat.two_pow_pos s)]

/-- A check is the bit span of each key that it holds. -/
theorem Check.dyadic.low_eq {s k : Nat} {c : Check} (h : c.dyadic s) (hk : c.holds k) : c.low = alignw k s := by
  have hpos := Nat.two_pow_pos s
  obtain ⟨hlow, hhigh⟩ := h
  obtain ⟨hk, hk'⟩ := hk
  exact eq_alignw_of_dvd (Nat.dvd_of_mod_eq_zero hlow) hk (by omega)

/-- Covering is overhanging: the bit span does not lie in the query (43_range.md rules R361, R367). -/
theorem covering_eq_not_spanInside {g : Geom} {i k : Nat} {c : Check} (h : c.dyadic (g.shift i)) (hk : c.holds k) :
    c.covering lo hi = !g.spanInside lo hi i k := by
  unfold Check.covering Geom.spanInside
  rw [← h.low_eq hk, ← h.2]
  by_cases hlo : lo ≤ c.low <;> by_cases hhi : c.high ≤ hi <;> simp [hlo, hhi] <;> omega

end Checks

/-- A key whose bit span lies in the query is one of its keys. -/
theorem le_of_spanInside {g : Geom} {lo hi i k : Nat} (h : g.spanInside lo hi i k = true) : lo ≤ k ∧ k ≤ hi := by
  obtain ⟨hlo, hhi⟩ := (Bool.and_eq_true _ _).mp h
  have hk := alignw_le k (g.shift i)
  have hk' := lt_alignw_add k (g.shift i)
  have hlo := of_decide_eq_true hlo
  have hhi := of_decide_eq_true hhi
  omega

/-! ### The layers of a legal configuration -/

section Layers
variable {g : Geom} (hlegal : legalConfig g.params g.act = true)
include hlegal

theorem one_le_layers : 1 ≤ g.layers := ((legalConfig_iff _ _).mp hlegal).1

theorem shift_zero : g.shift 0 = 0 := by
  obtain ⟨-, -, -, -, -, hzero, -⟩ := (legalConfig_iff _ _).mp hlegal
  exact hzero

theorem shift_succ {i : Nat} (hi : i < g.layers) : g.shift (i + 1) = g.shift i + g.delta i := by
  obtain ⟨-, -, -, -, hlayers, -⟩ := (legalConfig_iff _ _).mp hlegal
  exact (hlayers i hi).2.2

/-- The bit spans of a layer consist of whole ones of the layer below. -/
theorem two_pow_shift_pred_dvd {i : Nat} (hpos : 1 ≤ i) (hi : i < g.layers) :
    2 ^ g.shift (i - 1) ∣ 2 ^ g.shift i := by
  have hshift := shift_succ hlegal (Nat.lt_of_le_of_lt (Nat.sub_le i 1) hi)
  rw [Nat.sub_add_cancel hpos] at hshift
  exact pow_dvd_pow 2 (by omega)

theorem shift_le_keyBits {i : Nat} (hi : i ≤ g.layers) : g.shift i ≤ g.keyBits := by
  induction hi using Nat.decreasingInduction with
  | self =>
    obtain ⟨-, -, -, -, -, -, hlast, -⟩ := (legalConfig_iff _ _).mp hlegal
    exact hlast
  | of_succ i hi ih =>
    rw [shift_succ hlegal hi] at ih
    omega

/-- The bit span of a key selects one bit (41_hash_locate.md rule R259). -/
theorem bitProbe_alignw {i : Nat} (hi : i < g.layers) (m : Memory) (k : Nat) :
    g.bitProbe m i (alignw k (g.shift i)) = g.bitProbe m i k := by
  unfold Geom.bitProbe
  rw [((keysOfOneSpanShareTheirBit g i _ k hlegal hi).2 (alignw_shiftRight k _)).2]

end Layers

/-! ### A key's way down the layers -/

/-- The key's bits are set from layer n − 1 down to a layer at which its bit span lies in the query (43_range.md
rule R367). -/
def Geom.keyFound (g : Geom) (m : Memory) (lo hi : Nat) : Nat → Nat → Prop
  | 0, _ => False
  | i + 1, k => g.bitProbe m i k = true ∧ (g.spanInside lo hi i k = true ∨ g.keyFound m lo hi i k)

theorem keyFound_succ_of_inside {g : Geom} {m : Memory} {lo hi i k : Nat} (h : g.spanInside lo hi i k = true) :
    g.keyFound m lo hi (i + 1) k ↔ g.bitProbe m i k = true := by
  simp [Geom.keyFound, h]

/-- A key of a covering bit span is found where the span's bit is set and the key is found below (43_range.md rule
R362). -/
theorem keyFound_succ_of_covering {g : Geom} {m : Memory} {lo hi i x k : Nat}
    (hlegal : legalConfig g.params g.act = true) (hi' : i < g.layers) (hx : 2 ^ g.shift i ∣ x)
    (hk : x ≤ k ∧ k < x + 2 ^ g.shift i) (hcov : x < lo ∨ x + 2 ^ g.shift i - 1 > hi) :
    g.keyFound m lo hi (i + 1) k ↔ g.bitProbe m i x = true ∧ g.keyFound m lo hi i k := by
  have hspan := eq_alignw_of_dvd hx hk.1 hk.2
  have hout : g.spanInside lo hi i k = false := by
    rw [Geom.spanInside, ← hspan, Bool.and_eq_false_iff, decide_eq_false_iff_not, decide_eq_false_iff_not]
    omega
  rw [Geom.keyFound, hout, hspan, bitProbe_alignw hlegal hi']
  simp

section Loop
variable {g : Geom} {m : Memory} {lo hi : Nat} (hlegal : legalConfig g.params g.act = true)
include hlegal

theorem Check.dyadic.bitProbe_low {i k : Nat} {c : Check} (hi : i < g.layers) (h : c.dyadic (g.shift i))
    (hk : c.holds k) : g.bitProbe m i c.low = g.bitProbe m i k := by
  rw [h.low_eq hk, bitProbe_alignw hlegal hi]

/-- The range probe of a check is the probe of its bit (43_range.md rule R363). -/
theorem Check.dyadic.rangeProbe_iff {i : Nat} {c : Check} (hi : i < g.layers) (h : c.dyadic (g.shift i)) :
    g.rangeProbe m i c.low c.high = true ↔ ∃ k, c.holds k ∧ g.bitProbe m i k = true := by
  have hd := one_le_delta_of_legalConfig hlegal hi
  have hpos := Nat.two_pow_pos (g.shift i)
  have hle : c.low ≤ c.high := by rw [h.2]; omega
  have hspan : c.low >>> g.shift i = c.high >>> g.shift i := by
    rw [h.low_eq ⟨hle, le_rfl⟩, alignw_shiftRight]
  have hp : g.keyPrefix i c.low = g.keyPrefix i c.high := by
    rw [keyPrefix_eq_div hd, keyPrefix_eq_div hd, hspan]
  rw [rangeProbeIsTheOrOfBitProbes g m i _ _ hd hle hp]
  exact exists_congr fun k => and_assoc.symm

/-- A check of layer 0 is a key of the query, and contained (43_range.md rule R364). -/
theorem not_covering_of_layer_zero {c : Check} (hle : lo ≤ hi) (h : c.dyadic (g.shift 0)) (htag : c.tagOk lo hi) :
    c.covering lo hi = false := by
  obtain ⟨hlow, hhigh⟩ := Check.meets h htag hle
  obtain ⟨-, hwidth⟩ := h
  rw [shift_zero hlegal] at hwidth
  simp only [Check.covering, Bool.or_eq_false_iff, decide_eq_false_iff_not]
  omega

section Layer
variable {i : Nat} {cs : List Check} (hlayer : i < g.layers) (hcs : ChecksOk lo hi (g.shift i) cs)
include hlayer hcs

/-- A layer hits where the bit span of one of the frontier's keys is contained and its bit is set (43_range.md rule
R363). -/
theorem any_hits_iff :
    cs.any (g.hits m lo hi i) = true ↔
      ∃ k, (lo ≤ k ∧ k ≤ hi) ∧ Covers cs k ∧ g.bitProbe m i k = true ∧ g.spanInside lo hi i k = true := by
  have hhits {c : Check} {k : Nat} (hc : c ∈ cs) (hk : c.holds k) :
      g.hits m lo hi i c = true ↔ g.spanInside lo hi i k = true ∧ ∃ k', c.holds k' ∧ g.bitProbe m i k' = true := by
    rw [Geom.hits, Bool.and_eq_true, (hcs c hc).1.rangeProbe_iff hlegal hlayer,
      covering_eq_not_spanInside (hcs c hc).1 hk, Bool.not_not]
  rw [List.any_eq_true]
  constructor
  · rintro ⟨c, hc, hhit⟩
    obtain ⟨-, hprobe⟩ := (Bool.and_eq_true _ _).mp hhit
    obtain ⟨k, hk, hbit⟩ := ((hcs c hc).1.rangeProbe_iff hlegal hlayer).mp hprobe
    obtain ⟨hin, -⟩ := (hhits hc hk).mp hhit
    exact ⟨k, le_of_spanInside hin, ⟨c, hc, hk⟩, hbit, hin⟩
  · rintro ⟨k, -, ⟨c, hc, hk⟩, hbit, hin⟩
    exact ⟨c, hc, (hhits hc hk).mpr ⟨hin, k, hk, hbit⟩⟩

variable (hle : lo ≤ hi)
include hle

/-- A covering check has a layer below, whose bit spans it consists of (43_range.md rules R362, R364). -/
theorem checksOk_of_covering {c : Check} (hc : c ∈ cs) (hcov : c.covering lo hi = true) :
    ChecksOk lo hi (g.shift (i - 1) + g.delta (i - 1)) [c] := by
  cases i with
  | zero => simp [not_covering_of_layer_zero hlegal hle (hcs c hc).1 (hcs c hc).2] at hcov
  | succ i =>
    rw [Nat.add_sub_cancel, ← shift_succ hlegal (Nat.lt_of_succ_lt hlayer), checksOk_singleton]
    exact hcs c hc

theorem checksOk_children : ChecksOk lo hi (g.shift (i - 1)) (cs.flatMap (g.children m lo hi i)) := by
  intro d hd
  obtain ⟨c, hc, hd⟩ := List.mem_flatMap.mp hd
  unfold Geom.children at hd
  split_ifs at hd with hsplit
  · obtain ⟨hcov, -⟩ := (Bool.and_eq_true _ _).mp hsplit
    exact (checksOk_of_covering hlegal hlayer hcs hle hc hcov).advance d hd
  · cases hd

/-- The next frontier holds the keys whose bit span overhangs the query and has its bit set (43_range.md rule R362). -/
theorem covers_children_iff {k : Nat} (hlo : lo ≤ k) (hhi : k ≤ hi) :
    Covers (cs.flatMap (g.children m lo hi i)) k ↔
      Covers cs k ∧ g.bitProbe m i k = true ∧ ¬ g.spanInside lo hi i k = true := by
  have hsplit {c : Check} (hc : c ∈ cs) :
      (c.covering lo hi && g.bitProbe m i c.low) = true ∧ c.holds k ↔
        c.holds k ∧ g.bitProbe m i k = true ∧ ¬ g.spanInside lo hi i k = true := by
    rw [and_comm]
    refine and_congr_right fun hk => ?_
    rw [Bool.and_eq_true, and_comm, (hcs c hc).1.bitProbe_low hlegal hlayer hk,
      covering_eq_not_spanInside (hcs c hc).1 hk, Bool.not_eq_true', Bool.not_eq_true]
  have hchild {c : Check} (hc : c ∈ cs) : Covers (g.children m lo hi i c) k ↔
      (c.covering lo hi && g.bitProbe m i c.low) = true ∧ c.holds k := by
    unfold Geom.children
    split_ifs with h
    · obtain ⟨hcov, -⟩ := (Bool.and_eq_true _ _).mp h
      rw [covers_advance_iff (checksOk_of_covering hlegal hlayer hcs hle hc hcov) hlo hhi, covers_singleton,
        iff_and_self]
      exact fun _ => h
    · simp [Covers, h]
  rw [covers_flatMap]
  constructor
  · rintro ⟨c, hc, hk⟩
    obtain ⟨hk, hprobe⟩ := (hsplit hc).mp ((hchild hc).mp hk)
    exact ⟨⟨c, hc, hk⟩, hprobe⟩
  · rintro ⟨⟨c, hc, hk⟩, hprobe⟩
    exact ⟨c, hc, (hchild hc).mpr ((hsplit hc).mpr ⟨hk, hprobe⟩)⟩

end Layer

/-- The main loop follows every key of the frontier down the layers (43_range.md rules R365, R367). -/
theorem refLoop_iff {n : Nat} {cs : List Check} (hn : n ≤ g.layers) (hle : lo ≤ hi)
    (hcs : ChecksOk lo hi (g.shift (n - 1)) cs) :
    g.refLoop m lo hi n cs = true ↔ ∃ k, (lo ≤ k ∧ k ≤ hi) ∧ Covers cs k ∧ g.keyFound m lo hi n k := by
  induction n generalizing cs with
  | zero => simp [Geom.refLoop, Geom.keyFound]
  | succ i ih =>
    rw [Nat.add_sub_cancel] at hcs
    rw [Geom.refLoop, Bool.or_eq_true, any_hits_iff hlegal hn hcs,
      ih (Nat.le_of_lt hn) (checksOk_children hlegal hn hcs hle), ← exists_or]
    refine exists_congr fun k => ?_
    rw [← and_or_left]
    refine and_congr_right fun ⟨hlo, hhi⟩ => ?_
    rw [covers_children_iff hlegal hn hcs hle hlo hhi, Geom.keyFound]
    tauto

/-- OVERLAPS_REF follows every key of the query down the layers (43_range.md rules R366, R367). -/
theorem overlapsRef_iff (hle : lo ≤ hi) (hhi : hi < 2 ^ g.keyBits) :
    g.overlapsRef m lo hi = true ↔ ∃ k, (lo ≤ k ∧ k ≤ hi) ∧ g.keyFound m lo hi g.layers k := by
  have hsum : g.shift (g.layers - 1) + (g.keyBits - g.shift (g.layers - 1)) = g.keyBits :=
    Nat.add_sub_cancel' (shift_le_keyBits hlegal (Nat.sub_le _ _))
  have hdomain : ChecksOk lo hi (g.shift (g.layers - 1) + (g.keyBits - g.shift (g.layers - 1)))
      [⟨0, 2 ^ g.keyBits - 1, .notYetSplit⟩] := by
    rw [hsum]
    exact checksOk_singleton.mpr (splitKeepsTheTagConditions.1 g.keyBits lo hi hle hhi)
  rw [Geom.overlapsRef, Geom.initialFrontier, refLoop_iff hlegal le_rfl hle hdomain.advance]
  refine exists_congr fun k => and_congr_right fun ⟨hlo, hk⟩ => and_iff_right ?_
  rw [covers_advance_iff hdomain hlo hk, covers_singleton]
  exact ⟨Nat.zero_le k, Nat.le_sub_one_of_lt (lt_of_le_of_lt hk hhi)⟩

end Loop

end Sys2Proof.Machine
end

section
/-! What OVERLAPS answers for a key whose bits are known (43_range.md rules R369, R371). -/

namespace Sys2Proof.Machine

section Key
variable {g : Geom} {m : Memory} {lo hi k : Nat} (hlegal : legalConfig g.params g.act = true)
include hlegal

/-- A bit span of layer 0 is one key (43_range.md rules R352, R364). -/
theorem spanInside_zero (hlo : lo ≤ k) (hhi : k ≤ hi) : g.spanInside lo hi 0 k = true := by
  have hk : alignw k 0 = k := alignw_of_dvd (one_dvd k)
  simp [Geom.spanInside, shift_zero hlegal, hk, hlo, hhi]

/-- A key of the query all of whose bits are set is found. -/
theorem keyFound_of_bits {n : Nat} (hlo : lo ≤ k) (hhi : k ≤ hi) (hn : 1 ≤ n)
    (hbits : ∀ j, j < n → g.bitProbe m j k = true) : g.keyFound m lo hi n k := by
  induction n, hn using Nat.le_induction with
  | base => exact ⟨hbits 0 one_pos, .inl (spanInside_zero hlegal hlo hhi)⟩
  | succ i _ ih => exact ⟨hbits i (Nat.lt_succ_self i), .inr (ih fun j hj => hbits j (Nat.lt_succ_of_lt hj))⟩

theorem overlapsRef_of_containsKey (hlo : lo ≤ k) (hk : k ≤ hi) (hhi : hi < 2 ^ g.keyBits)
    (hbits : g.containsKey m k = true) : g.overlapsRef m lo hi = true :=
  (overlapsRef_iff hlegal (hlo.trans hk) hhi).mpr
    ⟨k, ⟨hlo, hk⟩, keyFound_of_bits hlegal hlo hk (one_le_layers hlegal) (containsKey_iff.mp hbits)⟩

/-- A bit span of a layer above layer 0 is wider than one key (43_range.md rule R369). -/
theorem not_spanInside_self {i : Nat} (hi : i + 1 < g.layers) : g.spanInside k k (i + 1) k = false := by
  have hd := one_le_delta_of_legalConfig hlegal (Nat.lt_of_succ_lt hi)
  have hwidth : 2 ^ 1 ≤ 2 ^ g.shift (i + 1) :=
    Nat.pow_le_pow_right two_pos (by rw [shift_succ hlegal (Nat.lt_of_succ_lt hi)]; omega)
  have hk := alignw_le k (g.shift (i + 1))
  rw [Geom.spanInside, Bool.and_eq_false_iff, decide_eq_false_iff_not, decide_eq_false_iff_not]
  omega

/-- OVERLAPS of one key follows it down to layer 0. -/
theorem bits_of_keyFound_self {n : Nat} (hn : n ≤ g.layers) (h : g.keyFound m k k n k) :
    ∀ j, j < n → g.bitProbe m j k = true := by
  induction n with
  | zero => exact fun j hj => absurd hj (Nat.not_lt_zero j)
  | succ i ih =>
    obtain ⟨hbit, hdown⟩ := h
    refine Nat.forall_lt_succ_right.mpr ⟨?_, hbit⟩
    cases i with
    | zero => exact fun j hj => absurd hj (Nat.not_lt_zero j)
    | succ i =>
      rw [not_spanInside_self hlegal hn] at hdown
      exact ih (Nat.le_of_lt hn) (hdown.resolve_left Bool.false_ne_true)

theorem overlapsRef_self (hk : k < 2 ^ g.keyBits) : g.overlapsRef m k k = g.containsKey m k := by
  rw [Bool.eq_iff_iff]
  refine ⟨fun h => ?_, overlapsRef_of_containsKey hlegal le_rfl le_rfl hk⟩
  obtain ⟨k', ⟨hlo, hhi⟩, hfound⟩ := (overlapsRef_iff hlegal le_rfl hk).mp h
  obtain rfl : k' = k := le_antisymm hhi hlo
  exact containsKey_iff.mpr (bits_of_keyFound_self hlegal le_rfl hfound)

end Key

/-! ### The commands -/

theorem exec_contains_of_fits {s : State} (hcfg : s.status.cfgValid = true) (hfits : keyFits s.params s.opa = true)
    (haddr : (s.geom Config.hash).addressable = true) :
    ∃ t, exec .contains s = .next t
      ∧ t.status.result = (s.geom Config.hash).containsKey s.cells s.opa.toNat := by
  obtain ⟨t, ht⟩ := runContains_answers (s := launch (encode .contains) s) haddr
  refine ⟨t, ht, ?_⟩
  obtain ⟨e, he, -⟩ | ⟨-, -, rfl⟩ := runContains_next ht
  · simp [(pointError_none_iff (launch (encode .contains) s)).mpr ⟨hcfg, hfits⟩] at he
  · exact congrArg ((s.geom Config.hash).containsKey s.cells) (keyOf_of_fits hfits)

theorem exec_overlaps_of_fits {s : State} (hcfg : s.status.cfgValid = true) (hlo : keyFits s.params s.opa = true)
    (hhi : keyFits s.params s.opb = true) (hord : s.opa.toNat ≤ s.opb.toNat)
    (haddr : (s.geom Config.hash).addressable = true) :
    ∃ t, exec .overlaps s = .next t
      ∧ t.status.result = (s.geom Config.hash).overlapsRef s.cells s.opa.toNat s.opb.toNat := by
  obtain ⟨t, ht⟩ := runOverlaps_answers (s := launch (encode .overlaps) s) haddr
  refine ⟨t, ht, ?_⟩
  have hlo' := keyOf_of_fits hlo
  have hhi' := keyOf_of_fits hhi
  obtain ⟨e, he, -⟩ | ⟨-, -, rfl⟩ := runOverlaps_next ht
  · have hpre : rangeError (launch (encode .overlaps) s) = none :=
      (rangeError_none_iff _).mpr ⟨hcfg, hlo, hhi, by simp [queryLo, queryHi, hlo', hhi', hord]⟩
    simp [hpre] at he
  · exact congrArg₂ ((s.geom Config.hash).overlapsRef s.cells) hlo' hhi'

/-- Settles O31: above layer 0 the bit span of the key overhangs the query, so that OVERLAPS reads the key's bits of all
layers, as CONTAINS does. -/
theorem overlapsOfOneKeyIsContains : Obligations.OverlapsOfOneKeyIsContains := by
  intro s k b hlegal hcfg hfits
  have haddr : (s.geom Config.hash).addressable = true := addressable_of_legalConfig hlegal
  obtain ⟨t, ht, htres⟩ :=
    exec_overlaps_of_fits (s := withOperands s k k) hcfg hfits hfits le_rfl haddr
  obtain ⟨u, hu, hures⟩ := exec_contains_of_fits (s := withOperands s k b) hcfg hfits haddr
  have hself : (s.geom Config.hash).overlapsRef s.cells k.toNat k.toNat
      = (s.geom Config.hash).containsKey s.cells k.toNat := overlapsRef_self hlegal (of_decide_eq_true hfits)
  refine ⟨t, u, ht, hu, (htres.trans hself).trans hures.symm, ?_⟩
  rw [htres]
  exact (Bool.eq_iff_iff.mp hself).trans containsKey_iff

/-- A filter that finds a key finds every range that holds it (43_range.md rule R371). -/
theorem ContainsFinds.overlapsFinds {s : State} {k lo hi : Word} (hlegal : legalConfig s.params s.act = true)
    (h : ContainsFinds s k) (hlo : lo.toNat ≤ k.toNat) (hhi : k.toNat ≤ hi.toNat) (hfits : keyFits s.params hi = true) :
    OverlapsFinds s lo hi := by
  have hbound : hi.toNat < 2 ^ s.params.keyW.bits := of_decide_eq_true hfits
  have hfitsLo : keyFits s.params lo = true := decide_eq_true (lt_of_le_of_lt (hlo.trans hhi) hbound)
  have hfound := h.found
  rw [keyOf_of_fits h.fits] at hfound
  refine ⟨h.cfgValid, hfitsLo, hfits, ?_, h.addressable, ?_⟩ <;> rw [keyOf_of_fits hfitsLo, keyOf_of_fits hfits]
  · exact hlo.trans hhi
  · exact overlapsRef_of_containsKey hlegal hlo hhi hbound hfound

/-- Settles O45: the filter that ADD leaves finds the key, so it finds the range, and no later step takes a bit back. -/
theorem addedKeyIsFoundByEveryRange : Obligations.AddedKeyIsFoundByEveryRange := by
  intro s t u lo hi hlegal hadd herr hlater hlo hhi hfits
  have hgrows : FilterGrows s t := filterGrows_exec (i := .add) nofun hadd
  have hlegal' : legalConfig t.params t.act = true := by rwa [hgrows.params, hgrows.act]
  have hfits' : keyFits t.params hi = true := hgrows.params ▸ hfits
  exact (((containsFinds_of_add hadd herr).overlapsFinds hlegal' hlo hhi hfits').of_grows hlater.filterGrows).answers

end Sys2Proof.Machine
end

section
/-! The registers of the range sequencer (43_range.md rules R391 to R396, R401): what the invariant's clauses say, the
segments that RQ_START and RQ_ITEM write, and the end of a word-run. -/

namespace Sys2Proof.Machine

/-! ### The clauses of the invariant -/

/-- A segment of layer i (43_range.md rule R392). -/
structure SegmentSound (g : Geom) (lo hi i : Nat) (sg : Segment) : Prop where
  slo_dvd : 2 ^ g.shift i ∣ sg.slo
  shi_dvd : 2 ^ g.shift i ∣ sg.shi + 1
  nonempty : sg.slo ≤ sg.shi
  fits : sg.shi < 2 ^ g.keyBits
  meets_lo : lo < sg.slo + 2 ^ g.shift i
  meets_hi : sg.shi + 1 ≤ hi + 2 ^ g.shift i

theorem segmentOk_iff {g : Geom} {lo hi i : Nat} {sg : Segment} :
    segmentOk g lo hi i sg = true ↔ SegmentSound g lo hi i sg := by
  simp only [segmentOk, Bool.and_eq_true, decide_eq_true_eq, ← Nat.dvd_iff_mod_eq_zero, and_assoc]
  exact ⟨fun ⟨h₁, h₂, h₃, h₄, h₅, h₆⟩ => ⟨h₁, h₂, h₃, h₄, h₅, h₆⟩,
    fun ⟨h₁, h₂, h₃, h₄, h₅, h₆⟩ => ⟨h₁, h₂, h₃, h₄, h₅, h₆⟩⟩

/-- The current frontier (43_range.md rule R392). -/
structure SegsSound (g : Geom) (lo hi : Nat) (q : Sequencer) : Prop where
  valid0 : q.seg0.valid = true
  seg0 : SegmentSound g lo hi q.layer.toNat q.seg0
  seg1 : q.seg1.valid = true → SegmentSound g lo hi q.layer.toNat q.seg1 ∧ q.seg0.shi < q.seg1.slo
  segIdx : q.segIdx = 0 ∨ q.seg1.valid = true

theorem segsOk_iff {g : Geom} {lo hi : Nat} {q : Sequencer} : segsOk g lo hi q = true ↔ SegsSound g lo hi q := by
  have hclause {a b : Bool} {p : Prop} [Decidable p] : (!a || (b && decide p)) = true ↔ (a = true → b = true ∧ p) := by
    cases a <;> simp
  simp only [segsOk, Bool.and_eq_true, hclause, Bool.or_eq_true, decide_eq_true_eq, segmentOk_iff, and_assoc]
  exact ⟨fun ⟨h₁, h₂, h₃, h₄⟩ => ⟨h₁, h₂, h₃, h₄⟩, fun ⟨h₁, h₂, h₃, h₄⟩ => ⟨h₁, h₂, h₃, h₄⟩⟩

/-- A segment handed down to the layer below, behind the cursor (43_range.md rule R394). -/
def HandedSound (g : Geom) (lo hi : Nat) (q : Sequencer) (sg : Segment) : Prop :=
  SegmentSound g lo hi (q.layer.toNat - 1) sg ∧ sg.shi < q.cursor

/-- The next frontier so far (43_range.md rules R391, R394, R401). -/
structure NSegsSound (g : Geom) (lo hi : Nat) (q : Sequencer) : Prop where
  ncount_le : q.ncount.toNat ≤ coveringPassed g lo hi q.layer.toNat q.cursor
  nseg0 : q.ncount ≠ 0 → 1 ≤ q.layer.toNat ∧ HandedSound g lo hi q q.nseg0
  valid0 : q.nseg0.valid = true ↔ q.ncount ≠ 0
  valid1 : q.nseg1.valid = true ↔ q.ncount = 2
  nseg1 : q.nseg1.valid = true → HandedSound g lo hi q q.nseg1 ∧ q.nseg0.shi < q.nseg1.slo

theorem nsegsOk_iff {g : Geom} {lo hi : Nat} {q : Sequencer} : nsegsOk g lo hi q = true ↔ NSegsSound g lo hi q := by
  have hvalid {a : Bool} {p : Prop} [Decidable p] : (a == decide p) = true ↔ (a = true ↔ p) := by
    cases a <;> simp
  simp only [nsegsOk, Bool.and_eq_true, Bool.or_eq_true, Bool.not_eq_true', decide_eq_true_eq, hvalid, segmentOk_iff]
  constructor
  · rintro ⟨⟨⟨⟨hcount, h0⟩, hv0⟩, hv1⟩, h1⟩
    refine ⟨hcount, fun hne => ?_, hv0, hv1, fun hv => ?_⟩
    · obtain ⟨⟨hlayer, -⟩, hsound⟩ := h0.resolve_left hne
      exact ⟨hlayer, hsound⟩
    · exact h1.resolve_left (by simp [hv])
  · rintro ⟨hcount, h0, hv0, hv1, h1⟩
    refine ⟨⟨⟨⟨hcount, ?_⟩, hv0⟩, hv1⟩, ?_⟩
    · by_cases hne : q.ncount = 0
      · exact .inl hne
      · obtain ⟨hlayer, hsound⟩ := h0 hne
        exact .inr ⟨⟨hlayer, hv0.mpr hne⟩, hsound⟩
    · cases hv : q.nseg1.valid with
      | false => exact .inl rfl
      | true => exact .inr (h1 hv)

/-- Where the cursor stands in the current segment (43_range.md rule R399). -/
structure CursorSound (g : Geom) (q : Sequencer) : Prop where
  dvd : 2 ^ g.shift q.layer.toNat ∣ q.cursor
  slo_le : (currentSegment q).slo ≤ q.cursor
  le_shi : q.cursor ≤ (currentSegment q).shi + 1

theorem cursorOk_iff {g : Geom} {q : Sequencer} : cursorOk g q = true ↔ CursorSound g q := by
  simp only [cursorOk, Bool.and_eq_true, decide_eq_true_eq, ← Nat.dvd_iff_mod_eq_zero, and_assoc]
  exact ⟨fun ⟨h₁, h₂, h₃⟩ => ⟨h₁, h₂, h₃⟩, fun ⟨h₁, h₂, h₃⟩ => ⟨h₁, h₂, h₃⟩⟩

theorem SegsSound.current {g : Geom} {lo hi : Nat} {q : Sequencer} (h : SegsSound g lo hi q) :
    SegmentSound g lo hi q.layer.toNat (currentSegment q) := by
  unfold currentSegment
  split_ifs with hidx
  · exact h.seg0
  · exact (h.seg1 (h.segIdx.resolve_left hidx)).1

/-! ### How many covering checks lie behind the cursor -/

section Passed
variable (g : Geom) (lo hi i : Nat)

theorem coveringPassed_le_two (x : Nat) : coveringPassed g lo hi i x ≤ 2 := by
  unfold coveringPassed
  split_ifs <;> omega

theorem coveringPassed_mono {x y : Nat} (h : x ≤ y) : coveringPassed g lo hi i x ≤ coveringPassed g lo hi i y := by
  unfold coveringPassed
  split_ifs <;> omega

/-- The cursor passes a covering check (43_range.md rule R391). -/
theorem coveringPassed_lt {x y : Nat} (h : x < y) (hx : x = alignw lo (g.shift i) ∨ x = alignw hi (g.shift i)) :
    coveringPassed g lo hi i x < coveringPassed g lo hi i y := by
  unfold coveringPassed
  split_ifs <;> omega

end Passed

/-! ### Segments -/

/-- The segment is valid and the key lies in it. -/
def Segment.holds (sg : Segment) (k : Nat) : Prop := sg.valid = true ∧ sg.slo ≤ k ∧ k ≤ sg.shi

/-- The hull of some keys of the query below a multiple of the width is a segment below it (43_range.md rules R393,
R394). -/
theorem hullSegment_sound {g : Geom} {lo hi i a b y : Nat} (hab : a ≤ b) (ha : lo ≤ a) (hb : b ≤ hi) (hby : b < y)
    (hy : 2 ^ g.shift i ∣ y) (hfits : y ≤ 2 ^ g.keyBits) :
    SegmentSound g lo hi i (hullSegment a b (g.shift i)) ∧ (hullSegment a b (g.shift i)).shi < y := by
  have hpos := Nat.two_pow_pos (g.shift i)
  have hend : (hullSegment a b (g.shift i)).shi + 1 = alignw b (g.shift i) + 2 ^ g.shift i :=
    Nat.sub_add_cancel (Nat.le_add_left_of_le hpos)
  have hslo := alignw_le a (g.shift i)
  have hslo' := lt_alignw_add a (g.shift i)
  have hshi := alignw_le b (g.shift i)
  have hshi' := lt_alignw_add b (g.shift i)
  have hbound := alignw_add_le_of_dvd hy hby
  refine ⟨⟨two_pow_dvd_alignw _ _, hend ▸ (two_pow_dvd_alignw _ _).add (dvd_refl _), ?_, by omega, ?_, by omega⟩,
    by omega⟩
  · show alignw a (g.shift i) ≤ _
    omega
  · show lo < alignw a (g.shift i) + _
    omega

/-- The child segment of a span holds the keys of the query that lie in the span (43_range.md rule R394). -/
theorem hullSegment_holds_iff {lo hi x y w k : Nat} (hlo : lo ≤ k) (hhi : k ≤ hi) (hx : 2 ^ w ∣ x) (hy : 2 ^ w ∣ y)
    (hxy : x < y) : (hullSegment (max lo x) (min hi (y - 1)) w).holds k ↔ x ≤ k ∧ k < y := by
  have hslo := alignw_le (max lo x) w
  have hslo' := le_alignw_of_dvd hx (le_max_right lo x)
  have hshi := lt_alignw_add (min hi (y - 1)) w
  have hshi' : alignw (min hi (y - 1)) w + 2 ^ w ≤ y := alignw_add_le_of_dvd hy (by omega)
  simp only [Segment.holds, hullSegment, true_and]
  omega

/-! ### Word-runs -/

/-- The end of the word span of x (43_range.md rule R396). -/
theorem or_ones_eq (x n : Nat) : x ||| (2 ^ n - 1) = 2 ^ n * (x / 2 ^ n) + (2 ^ n - 1) := by
  rw [Nat.two_pow_add_eq_or_of_lt (Nat.sub_lt (Nat.two_pow_pos n) one_pos)]
  refine Nat.eq_of_testBit_eq fun j => ?_
  simp only [Nat.testBit_or, Nat.testBit_two_pow_sub_one, Nat.testBit_two_pow_mul, Nat.testBit_div_two_pow]
  by_cases hj : j < n
  · simp [hj]
  · simp [hj, Nat.not_lt.mp hj]

theorem two_pow_dvd_or_ones_add_one (x n : Nat) : 2 ^ n ∣ (x ||| (2 ^ n - 1)) + 1 := by
  rw [or_ones_eq, Nat.add_assoc, Nat.sub_add_cancel (Nat.two_pow_pos n)]
  exact (Dvd.intro _ rfl).add (dvd_refl _)

theorem or_ones_shiftRight (x n : Nat) : (x ||| (2 ^ n - 1)) >>> n = x >>> n := by
  have hpos := Nat.two_pow_pos n
  rw [or_ones_eq, Nat.shiftRight_eq_div_pow, Nat.shiftRight_eq_div_pow, Nat.mul_add_div hpos,
    Nat.div_eq_of_lt (Nat.sub_lt hpos one_pos), Nat.add_zero]

/-- A word-run is a whole number of checks of its segment, lies in the query and in one word span (43_range.md rules
R395, R396). -/
theorem runEnd_spec {g : Geom} {hi i x shi : Nat} (hd : 1 ≤ g.delta i) (hx : 2 ^ g.shift i ∣ x)
    (hshi : 2 ^ g.shift i ∣ shi + 1) (hxshi : x ≤ shi) (hxhi : x + 2 ^ g.shift i ≤ hi + 1) :
    2 ^ g.shift i ∣ runEnd g hi i x shi + 1 ∧ x ≤ runEnd g hi i x shi ∧ runEnd g hi i x shi ≤ shi
      ∧ runEnd g hi i x shi ≤ hi ∧ g.keyPrefix i x = g.keyPrefix i (runEnd g hi i x shi) := by
  have hpos := Nat.two_pow_pos (g.shift i)
  generalize hword : x ||| (2 ^ (g.shift i + g.delta i - 1) - 1) = word
  generalize htop : alignw (hi + 1) (g.shift i) = top
  have hrun : runEnd g hi i x shi = min (min shi word) (top - 1) := by rw [← hword, ← htop]; rfl
  have hxword : x ≤ word := hword ▸ Nat.left_le_or
  have hwordDvd : 2 ^ g.shift i ∣ word + 1 :=
    (pow_dvd_pow 2 (by omega)).trans (hword ▸ two_pow_dvd_or_ones_add_one _ _)
  have hwordSpan : g.keyPrefix i x = g.keyPrefix i word := hword ▸ (or_ones_shiftRight _ _).symm
  have hxtop : x + 2 ^ g.shift i ≤ top := htop ▸ le_alignw_of_dvd (hx.add (dvd_refl _)) hxhi
  have htopHi : top ≤ hi + 1 := htop ▸ alignw_le _ _
  have htopDvd : 2 ^ g.shift i ∣ top - 1 + 1 := by
    rw [Nat.sub_add_cancel (by omega), ← htop]
    exact two_pow_dvd_alignw _ _
  have hrunDvd : 2 ^ g.shift i ∣ min (min shi word) (top - 1) + 1 := by
    rcases min_choice (min shi word) (top - 1) with h | h <;> rw [h]
    · rcases min_choice shi word with h' | h' <;> rw [h'] <;> assumption
    · exact htopDvd
  rw [hrun]
  exact ⟨hrunDvd, by omega, by omega, by omega, keyPrefix_eq_of_between hwordSpan (by omega) (by omega)⟩

end Sys2Proof.Machine
end

section
/-! The range sequencer answers OVERLAPS_REF (43_range.md rules R397 to R401). A key of the query is open while it lies
ahead of the cursor or in a segment handed down and would be found from there: every step keeps the open keys or completes
with RESULT = 1 exactly when there is one. -/

namespace Sys2Proof.Machine

/-! ### Where the keys of the query are -/

/-- The key lies in the current frontier and has not been visited. -/
def Sequencer.ahead (q : Sequencer) (k : Nat) : Prop :=
  q.phase ≠ .rqSwap ∧ ((q.cursor ≤ k ∧ k ≤ (currentSegment q).shi) ∨ (q.segIdx = 0 ∧ q.seg1.holds k))

/-- The key lies in the next frontier. -/
def Sequencer.handedDown (q : Sequencer) (k : Nat) : Prop := q.nseg0.holds k ∨ q.nseg1.holds k

/-- The key would be found from where it is. -/
def Geom.openKey (g : Geom) (m : Memory) (lo hi : Nat) (q : Sequencer) (k : Nat) : Prop :=
  (q.ahead k ∧ g.keyFound m lo hi (q.layer.toNat + 1) k) ∨ (q.handedDown k ∧ g.keyFound m lo hi q.layer.toNat k)

/-- The range registers of a running OVERLAPS, as `rangeRegsOk` has them, by PHASE. -/
inductive RangeRegs (g : Geom) (lo hi : Nat) (q : Sequencer) : Prop
  | item (phase : q.phase = .rqItem) (segs : SegsSound g lo hi q) (nsegs : NSegsSound g lo hi q) (cursor : CursorSound g q)
  | seg (phase : q.phase = .rqSeg) (segs : SegsSound g lo hi q) (nsegs : NSegsSound g lo hi q)
      (cursor : q.cursor = (currentSegment q).shi + 1)
  | swap (phase : q.phase = .rqSwap) (nsegs : NSegsSound g lo hi q)

/-- The registers are sound where the frontier clause of the invariant says so in a phase of OVERLAPS. -/
theorem rangeRegs_iff (h : HashFn) (s : State) :
    RangeRegs (s.geom h) (queryLo s) (queryHi s) s.seq ↔
      (s.seq.phase = .rqItem ∨ s.seq.phase = .rqSeg ∨ s.seq.phase = .rqSwap) ∧ rangeRegsOk s = true := by
  have hsegs : segsOk (plainGeom s.params s.act) (queryLo s) (queryHi s) s.seq = true ↔ _ := segsOk_iff (g := s.geom h)
  have hnsegs : nsegsOk (plainGeom s.params s.act) (queryLo s) (queryHi s) s.seq = true ↔ _ :=
    nsegsOk_iff (g := s.geom h)
  have hcursor : cursorOk (plainGeom s.params s.act) s.seq = true ↔ _ := cursorOk_iff (g := s.geom h)
  unfold rangeRegsOk
  constructor
  · rintro (⟨hphase, h₁, h₂, h₃⟩ | ⟨hphase, h₁, h₂, h₃⟩ | ⟨hphase, h₁⟩)
    · simp [hphase, hsegs.mpr h₁, hnsegs.mpr h₂, hcursor.mpr h₃]
    · simp [hphase, hsegs.mpr h₁, hnsegs.mpr h₂, h₃]
    · simp [hphase, hnsegs.mpr h₁]
  · rintro ⟨hphase | hphase | hphase, hregs⟩ <;>
      simp only [hphase, Bool.and_eq_true, decide_eq_true_eq, hsegs, hnsegs, hcursor] at hregs
    · obtain ⟨⟨h₁, h₂⟩, h₃⟩ := hregs
      exact .item hphase h₁ h₂ h₃
    · obtain ⟨⟨h₁, h₂⟩, h₃⟩ := hregs
      exact .seg hphase h₁ h₂ h₃
    · exact .swap hphase hregs

/-- The sequencer of a running OVERLAPS after its first step. -/
structure RangeRunning (g : Geom) (lo hi : Nat) (q : Sequencer) : Prop where
  fresh : q.fresh = false
  layer : q.layer.toNat < g.layers
  regs : RangeRegs g lo hi q

/-- Items and segment ends of a layer in the order in which they come. -/
def phaseRank (q : Sequencer) : Nat :=
  match q.phase with
  | .rqItem => if q.segIdx = 0 then 4 else 2
  | .rqSeg => if q.segIdx = 0 then 3 else 1
  | _ => 0

/-- What every step of the sequencer decreases: the layer, then the keys that the cursor has not passed, then the phase. -/
def rangeMeasure (g : Geom) (q : Sequencer) : Nat ×ₗ Nat :=
  toLex (q.layer.toNat, 5 * (2 ^ g.keyBits - q.cursor) + phaseRank q)

/-- A step of the sequencer that goes on. -/
structure RangeGoesOn (g : Geom) (m : Memory) (lo hi : Nat) (q q' : Sequencer) : Prop where
  running : RangeRunning g lo hi q'
  openKey : ∀ k, lo ≤ k → k ≤ hi → (g.openKey m lo hi q' k ↔ g.openKey m lo hi q k)
  measure : rangeMeasure g q' < rangeMeasure g q

/-- What a step of the sequencer answers: it completes with whether a key is open, or goes on. -/
inductive RangeStep (g : Geom) (lo hi : Nat) (s : State) : Host.Outcome State Fault Refusal → Prop
  | completes (r : Bool) (h : r = true ↔ ∃ k, (lo ≤ k ∧ k ≤ hi) ∧ g.openKey s.cells lo hi s.seq k) :
      RangeStep g lo hi s (.next (complete r s))
  | goesOn (q : Sequencer) (h : RangeGoesOn g s.cells lo hi s.seq q) : RangeStep g lo hi s (.next (s.setSeq q))

/-! ### RQ_SEG and RQ_SWAP -/

/-- The segments handed down stay sound while the cursor goes up. -/
theorem NSegsSound.of_cursor_le {g : Geom} {lo hi : Nat} {q q' : Sequencer} (h : NSegsSound g lo hi q)
    (hlayer : q'.layer = q.layer) (hcount : q'.ncount = q.ncount) (h0 : q'.nseg0 = q.nseg0) (h1 : q'.nseg1 = q.nseg1)
    (hcursor : q.cursor ≤ q'.cursor) : NSegsSound g lo hi q' := by
  obtain ⟨hle, hnseg0, hvalid0, hvalid1, hnseg1⟩ := h
  unfold HandedSound at hnseg0 hnseg1
  constructor <;> simp only [HandedSound, hlayer, hcount, h0, h1]
  · exact hle.trans (coveringPassed_mono g lo hi _ hcursor)
  · intro hne
    obtain ⟨hpos, hsound, hbehind⟩ := hnseg0 hne
    exact ⟨hpos, hsound, lt_of_lt_of_le hbehind hcursor⟩
  · exact hvalid0
  · exact hvalid1
  · intro hv
    obtain ⟨⟨hsound, hbehind⟩, hord⟩ := hnseg1 hv
    exact ⟨⟨hsound, lt_of_lt_of_le hbehind hcursor⟩, hord⟩

theorem currentSegment_of_zero {q : Sequencer} (h : q.segIdx = 0) : currentSegment q = q.seg0 := if_pos h

section Steps
variable {g : Geom} {lo hi : Nat} {s : State} (hrun : RangeRunning g lo hi s.seq)

/-- In one layer, moving on means a later cursor or a later phase. -/
theorem rangeMeasure_lt {q q' : Sequencer} (hlayer : q'.layer = q.layer)
    (h : 5 * (2 ^ g.keyBits - q'.cursor) + phaseRank q' < 5 * (2 ^ g.keyBits - q.cursor) + phaseRank q) :
    rangeMeasure g q' < rangeMeasure g q :=
  Prod.Lex.toLex_lt_toLex.mpr (.inr ⟨congrArg BitVec.toNat hlayer, h⟩)

include hrun

/-- The end of a segment: the second segment is next, or the layer is done. -/
theorem rqSegStep_spec (hphase : s.seq.phase = .rqSeg) (hsegs : SegsSound g lo hi s.seq)
    (hnsegs : NSegsSound g lo hi s.seq) (hcursor : s.seq.cursor = (currentSegment s.seq).shi + 1) :
    RangeStep g lo hi s (.next (rqSegStep s)) := by
  have hpassed (k : Nat) : ¬ (s.seq.cursor ≤ k ∧ k ≤ (currentSegment s.seq).shi) := by omega
  have hahead (k : Nat) : s.seq.ahead k ↔ s.seq.segIdx = 0 ∧ s.seq.seg1.holds k := by
    simp [Sequencer.ahead, hphase, hpassed k]
  unfold rqSegStep
  split_ifs with hlast
  · refine .goesOn _ ⟨⟨hrun.fresh, hrun.layer, .swap rfl (hnsegs.of_cursor_le rfl rfl rfl rfl le_rfl)⟩,
      fun k _ _ => or_congr (and_congr_left' ?_) Iff.rfl, rangeMeasure_lt rfl ?_⟩
    · rw [hahead]
      rcases hlast with hidx | hvalid
      · simp [Sequencer.ahead, hidx]
      · simp [Sequencer.ahead, Segment.holds, hvalid]
    · simp only [phaseRank, hphase]
      split_ifs <;> omega
  · obtain ⟨hidx, hvalid⟩ := not_or.mp hlast
    rw [Bool.not_eq_false] at hvalid
    have hidx : s.seq.segIdx = 0 := by bv_omega
    obtain ⟨hsound, hord⟩ := hsegs.seg1 hvalid
    rw [currentSegment_of_zero hidx] at hcursor
    refine .goesOn _ ⟨⟨hrun.fresh, hrun.layer, .item rfl ⟨hsegs.valid0, hsegs.seg0, hsegs.seg1, .inr hvalid⟩
      (hnsegs.of_cursor_le rfl rfl rfl rfl ?_) ⟨hsound.slo_dvd, ?_, ?_⟩⟩,
      fun k _ _ => or_congr (and_congr_left' ?_) Iff.rfl, rangeMeasure_lt rfl ?_⟩
    · rw [hcursor]
      exact hord
    · simp [currentSegment, hidx]
    · simp [currentSegment, hidx]
      exact hsound.nonempty.trans (Nat.le_succ _)
    · rw [hahead]
      simp [Sequencer.ahead, currentSegment, Segment.holds, hidx, hvalid]
    · simp only [phaseRank, hphase, hidx]
      have hnext : (0 : BitVec 1) + 1 ≠ 0 := by decide
      simp only [if_neg hnext, if_true]
      omega

/-- The end of a layer: the segments handed down are the next frontier, or no key is left. -/
theorem rqSwapStep_spec (hphase : s.seq.phase = .rqSwap) (hnsegs : NSegsSound g lo hi s.seq) :
    RangeStep g lo hi s (.next (rqSwapStep s)) := by
  have hahead (k : Nat) : ¬ s.seq.ahead k := fun h => h.1 hphase
  unfold rqSwapStep
  split_ifs with hend
  · refine .completes false ⟨(nofun), ?_⟩
    rintro ⟨k, -, ⟨hk, -⟩ | ⟨hk, hfound⟩⟩
    · exact absurd hk (hahead k)
    · have hcount : s.seq.ncount ≠ 0 := by
        rcases hk with ⟨hv, -⟩ | ⟨hv, -⟩
        · exact hnsegs.valid0.mp hv
        · rw [hnsegs.valid1.mp hv]
          decide
      rw [hend.resolve_left hcount] at hfound
      exact hfound.elim
  · obtain ⟨hcount, hlayer⟩ := not_or.mp hend
    have hlower : (s.seq.layer - 1).toNat + 1 = s.seq.layer.toNat := by bv_omega
    have hlower' : (s.seq.layer - 1).toNat = s.seq.layer.toNat - 1 := by omega
    have hvalid := hnsegs.valid0.mpr hcount
    obtain ⟨-, hsound, -⟩ := hnsegs.nseg0 hcount
    rw [← hlower'] at hsound
    refine .goesOn _ ⟨⟨hrun.fresh, lt_of_le_of_lt (hlower ▸ Nat.le_succ _) hrun.layer,
      .item rfl ⟨hvalid, hsound, fun hv => ?_, .inl rfl⟩ ⟨Nat.zero_le _, fun h => absurd rfl h, ?_, ?_, (nofun)⟩
        ⟨hsound.slo_dvd, le_rfl, hsound.nonempty.trans (Nat.le_succ _)⟩⟩, fun k _ _ => ?_,
      Prod.Lex.toLex_lt_toLex.mpr (.inl (hlower ▸ Nat.lt_succ_self _))⟩
    · obtain ⟨⟨hsound1, -⟩, hord⟩ := hnsegs.nseg1 hv
      rw [← hlower'] at hsound1
      exact ⟨hsound1, hord⟩
    · simp
    · simp
    · simp only [Geom.openKey, hlower]
      simp [Sequencer.ahead, Sequencer.handedDown, Segment.holds, currentSegment, hphase, hvalid]

end Steps

/-! ### RQ_ITEM -/

/-- The sequencer after an item: the cursor is at `y`, and NSEG is what the item has made of it. -/
def Sequencer.afterItem (q : Sequencer) (a b : Segment) (n : BitVec 2) (y : Nat) : Sequencer :=
  { q with nseg0 := a, nseg1 := b, ncount := n, cursor := y }

/-- NSEG has room for the segment of a covering check, which comes behind those before it (43_range.md rules R394,
R401). -/
theorem appendSegment_spec {g : Geom} {lo hi y : Nat} {q : Sequencer} {sg : Segment} (h : NSegsSound g lo hi q)
    (hcount : q.ncount.toNat < coveringPassed g lo hi q.layer.toNat y) (hxy : q.cursor ≤ y) (hlayer : 1 ≤ q.layer.toNat)
    (hvalid : sg.valid = true) (hsound : SegmentSound g lo hi (q.layer.toNat - 1) sg) (hshi : sg.shi < y)
    (hslo : q.cursor ≤ sg.slo) :
    ∃ a b n, appendSegment sg q = some { q with nseg0 := a, nseg1 := b, ncount := n }
      ∧ NSegsSound g lo hi (q.afterItem a b n y)
      ∧ ∀ k, a.holds k ∨ b.holds k ↔ q.handedDown k ∨ sg.holds k := by
  have htwo := coveringPassed_le_two g lo hi q.layer.toNat y
  obtain hn | hn : q.ncount = 0 ∨ q.ncount = 1 := by bv_omega
  · have hempty0 : q.nseg0.valid = false := by simpa [hn] using h.valid0
    have hempty1 : q.nseg1.valid = false := by simpa [hn] using h.valid1
    have hone : (1 : BitVec 2) ≠ 0 ∧ (1 : BitVec 2) ≠ 2 := by decide
    rw [hn] at hcount
    refine ⟨sg, q.nseg1, 1, by simp [appendSegment, hn], ⟨hcount, fun _ => ⟨hlayer, hsound, hshi⟩,
      iff_of_true hvalid hone.1, iff_of_false (Bool.not_eq_true _ ▸ hempty1) hone.2,
      fun hv => absurd (hempty1.symm.trans hv) Bool.false_ne_true⟩, fun k => ?_⟩
    simp [Sequencer.handedDown, Segment.holds, hempty0, hempty1]
  · have hempty1 : q.nseg1.valid = false := by simpa [hn] using h.valid1
    have hne : q.ncount ≠ 0 := by rw [hn]; decide
    have htwo : (2 : BitVec 2) ≠ 0 := by decide
    obtain ⟨-, hsound0, hbehind⟩ := h.nseg0 hne
    rw [hn] at hcount
    refine ⟨q.nseg0, sg, 2, by simp [appendSegment, hn], ⟨hcount, fun _ => ⟨hlayer, hsound0, lt_of_lt_of_le hbehind hxy⟩,
      iff_of_true (h.valid0.mpr hne) htwo, iff_of_true hvalid rfl,
      fun _ => ⟨⟨hsound, hshi⟩, lt_of_lt_of_le hbehind hslo⟩⟩, fun k => ?_⟩
    simp [Sequencer.handedDown, Segment.holds, hempty1]

theorem ahead_of_item {q : Sequencer} (hphase : q.phase = .rqItem) (k : Nat) :
    q.ahead k ↔ (q.cursor ≤ k ∧ k ≤ (currentSegment q).shi) ∨ (q.segIdx = 0 ∧ q.seg1.holds k) := by
  simp [Sequencer.ahead, hphase]

section Item
variable {g : Geom} {m : Memory} {lo hi : Nat} {q : Sequencer} (hrun : RangeRunning g lo hi q)
  (hphase : q.phase = .rqItem) (hsegs : SegsSound g lo hi q)
include hrun hphase hsegs

/-- An item that moves the cursor to `y` goes on, where those keys it passes that would be found are in the segment it
hands down. -/
theorem rangeGoesOn_of_item {y : Nat} {a b : Segment} {n : BitVec 2} (new : Nat → Prop)
    (hslo : (currentSegment q).slo ≤ q.cursor) (hxy : q.cursor < y) (hyshi : y ≤ (currentSegment q).shi + 1)
    (hdvd : 2 ^ g.shift q.layer.toNat ∣ y) (hnsegs : NSegsSound g lo hi (q.afterItem a b n y))
    (hhanded : ∀ k, a.holds k ∨ b.holds k ↔ q.handedDown k ∨ new k)
    (hfound : ∀ k, lo ≤ k → k ≤ hi → ((q.cursor ≤ k ∧ k < y) ∧ g.keyFound m lo hi (q.layer.toNat + 1) k ↔
      new k ∧ g.keyFound m lo hi q.layer.toNat k)) :
    RangeGoesOn g m lo hi q (q.afterItem a b n y) where
  running := ⟨hrun.fresh, hrun.layer, .item hphase ⟨hsegs.valid0, hsegs.seg0, hsegs.seg1, hsegs.segIdx⟩ hnsegs
    ⟨hdvd, hslo.trans (Nat.le_of_lt hxy), hyshi⟩⟩
  openKey k hlo hhi := by
    have hahead : q.ahead k ↔ (q.cursor ≤ k ∧ k < y) ∨ (q.afterItem a b n y).ahead k := by
      have hitem : q.cursor ≤ k ∧ k ≤ (currentSegment q).shi ↔
          (q.cursor ≤ k ∧ k < y) ∨ (y ≤ k ∧ k ≤ (currentSegment q).shi) := by omega
      rw [ahead_of_item hphase, hitem, or_assoc]
      exact or_congr Iff.rfl (ahead_of_item (q := q.afterItem a b n y) hphase k).symm
    have hafter : g.openKey m lo hi (q.afterItem a b n y) k ↔
        ((q.afterItem a b n y).ahead k ∧ g.keyFound m lo hi (q.layer.toNat + 1) k)
          ∨ ((q.handedDown k ∨ new k) ∧ g.keyFound m lo hi q.layer.toNat k) :=
      or_congr Iff.rfl (and_congr_left' (hhanded k))
    rw [hafter, Geom.openKey, hahead, or_and_right, or_and_right, hfound k hlo hhi]
    exact or_comm.trans (or_assoc.trans or_comm)
  measure := by
    have hfits := hsegs.current.fits
    have hrank : phaseRank (q.afterItem a b n y) = phaseRank q := rfl
    refine rangeMeasure_lt rfl ?_
    rw [hrank]
    show 5 * (2 ^ g.keyBits - y) + phaseRank q < _
    omega

/-- An item that hands nothing down goes on, where none of the keys that it passes would be found. -/
theorem rangeGoesOn_of_drop {y : Nat} (hnsegs : NSegsSound g lo hi q) (hslo : (currentSegment q).slo ≤ q.cursor)
    (hxy : q.cursor < y) (hyshi : y ≤ (currentSegment q).shi + 1) (hdvd : 2 ^ g.shift q.layer.toNat ∣ y)
    (hfound : ∀ k, q.cursor ≤ k ∧ k < y → ¬ g.keyFound m lo hi (q.layer.toNat + 1) k) :
    RangeGoesOn g m lo hi q { q with cursor := y } :=
  rangeGoesOn_of_item (a := q.nseg0) (b := q.nseg1) (n := q.ncount) hrun hphase hsegs (fun _ => False) hslo hxy hyshi
    hdvd (hnsegs.of_cursor_le rfl rfl rfl rfl hxy.le) (fun _ => (or_iff_left not_false).symm)
    fun k _ _ => iff_of_false (fun ⟨hk, hkf⟩ => hfound k hk hkf) fun h => h.1

end Item

/-- A check of a segment ends in the segment and meets the query (43_range.md rule R392). -/
theorem SegmentSound.check {g : Geom} {lo hi i x : Nat} {sg : Segment} (h : SegmentSound g lo hi i sg)
    (hdvd : 2 ^ g.shift i ∣ x) (hslo : sg.slo ≤ x) (hshi : x ≤ sg.shi) :
    x + 2 ^ g.shift i ≤ sg.shi + 1 ∧ lo < x + 2 ^ g.shift i ∧ x ≤ hi := by
  have hend := add_le_of_dvd_of_lt hdvd h.shi_dvd (Nat.lt_succ_of_le hshi)
  have hlo := h.meets_lo
  have hhi := h.meets_hi
  omega

section ItemStep
variable {g : Geom} {lo hi : Nat} {s : State} (hlegal : legalConfig g.params g.act = true) (hle : lo ≤ hi)
  (hrun : RangeRunning g lo hi s.seq) (hphase : s.seq.phase = .rqItem) (hsegs : SegsSound g lo hi s.seq)
  (hnsegs : NSegsSound g lo hi s.seq) (hcursor : CursorSound g s.seq)
  (hin : s.seq.cursor ≤ (currentSegment s.seq).shi)
include hlegal hle hrun hphase hsegs hnsegs hcursor hin

/-- A covering check: its keys are handed down when its bit is set, and none of them is found otherwise (43_range.md
rules R362, R394). -/
theorem coveringItem_spec
    (hcov : s.seq.cursor < lo ∨ s.seq.cursor + 2 ^ g.shift s.seq.layer.toNat - 1 > hi) :
    RangeStep g lo hi s (coveringItem g lo hi s.seq.layer.toNat s.seq.cursor
      (s.seq.cursor + 2 ^ g.shift s.seq.layer.toNat - 1) s) := by
  have hsound := hsegs.current
  have hfits := hsound.fits
  obtain ⟨hend, hlo, hhi⟩ := hsound.check hcursor.dvd hcursor.slo_le hin
  have hdvd : 2 ^ g.shift s.seq.layer.toNat ∣ s.seq.cursor + 2 ^ g.shift s.seq.layer.toNat :=
    hcursor.dvd.add (dvd_refl _)
  have hlt : s.seq.cursor < s.seq.cursor + 2 ^ g.shift s.seq.layer.toNat :=
    Nat.lt_add_of_pos_right (Nat.two_pow_pos _)
  have hnext : s.seq.cursor + 2 ^ g.shift s.seq.layer.toNat - 1 + 1 = s.seq.cursor + 2 ^ g.shift s.seq.layer.toNat :=
    Nat.sub_add_cancel (by omega)
  have hfound (k : Nat) (hk : s.seq.cursor ≤ k ∧ k < s.seq.cursor + 2 ^ g.shift s.seq.layer.toNat) :=
    keyFound_succ_of_covering (m := s.cells) hlegal hrun.layer hcursor.dvd hk hcov
  unfold coveringItem
  split_ifs with hbit hzero
  · exfalso
    rw [hzero, shift_zero hlegal] at hcov hlo
    omega
  · have hlayer : 1 ≤ s.seq.layer.toNat := Nat.one_le_iff_ne_zero.mpr hzero
    have hfiner := two_pow_shift_pred_dvd hlegal hlayer hrun.layer
    have hx := hfiner.trans hcursor.dvd
    have hy := hfiner.trans hdvd
    obtain ⟨hseg, hshi⟩ := hullSegment_sound (g := g) (lo := lo) (hi := hi) (i := s.seq.layer.toNat - 1)
      (a := max lo s.seq.cursor) (b := min hi (s.seq.cursor + 2 ^ g.shift s.seq.layer.toNat - 1))
      (by omega) (le_max_left _ _) (min_le_left _ _) (by omega) hy (by omega)
    have hpassed := coveringPassed_lt g lo hi s.seq.layer.toNat hlt
      (atMostTwoChecksAreCovering lo hi s.seq.cursor _ hle (Nat.mod_eq_zero_of_dvd hcursor.dvd) hhi (by omega) hcov)
    obtain ⟨a, b, n, happend, hnsegs', hhanded⟩ := appendSegment_spec hnsegs (lt_of_le_of_lt hnsegs.ncount_le hpassed)
      hlt.le hlayer rfl hseg hshi (le_alignw_of_dvd hx (le_max_right _ _))
    rw [happend]
    simp only [hnext]
    refine .goesOn _ (rangeGoesOn_of_item hrun hphase hsegs _ hcursor.slo_le hlt hend hdvd hnsegs' hhanded
      fun k hlok hkhi => ?_)
    rw [hullSegment_holds_iff hlok hkhi hx hy hlt]
    exact and_congr_right fun hk => (hfound k hk).trans (and_iff_right hbit)
  · rw [hnext]
    refine .goesOn _ (rangeGoesOn_of_drop hrun hphase hsegs hnsegs hcursor.slo_le hlt hend hdvd fun k hk hkf => ?_)
    exact hbit ((hfound k hk).mp hkf).1

/-- A word-run: the keys it passes are found where their bits are set, and the range probe tells (43_range.md rules R363,
R395, R398). -/
theorem containedItem_spec (hlo : lo ≤ s.seq.cursor)
    (hxe : s.seq.cursor + 2 ^ g.shift s.seq.layer.toNat - 1 ≤ hi) :
    RangeStep g lo hi s (.next (containedItem g s.seq.layer.toNat s.seq.cursor
      (runEnd g hi s.seq.layer.toNat s.seq.cursor (currentSegment s.seq).shi) s)) := by
  have hd := one_le_delta_of_legalConfig hlegal hrun.layer
  obtain ⟨hdvd, hxe', heshi, hehi, hprefix⟩ := runEnd_spec (hi := hi) hd hcursor.dvd hsegs.current.shi_dvd hin (by omega)
  generalize runEnd g hi s.seq.layer.toNat s.seq.cursor (currentSegment s.seq).shi = e at *
  have hprobe := rangeProbeIsTheOrOfBitProbes g s.cells s.seq.layer.toNat s.seq.cursor e hd hxe' hprefix
  have hfound (k : Nat) (hk : s.seq.cursor ≤ k) (hke : k ≤ e) :
      g.keyFound s.cells lo hi (s.seq.layer.toNat + 1) k ↔ g.bitProbe s.cells s.seq.layer.toNat k = true := by
    have hspan := le_alignw_of_dvd hcursor.dvd hk
    have hspan' := alignw_add_le_of_dvd hdvd (Nat.lt_succ_of_le hke)
    have hinside : g.spanInside lo hi s.seq.layer.toNat k = true := by
      rw [Geom.spanInside, Bool.and_eq_true, decide_eq_true_eq, decide_eq_true_eq]
      omega
    exact keyFound_succ_of_inside hinside
  unfold containedItem
  split_ifs with hhit
  · obtain ⟨k, hk, hke, hbit⟩ := hprobe.mp hhit
    have hahead := (ahead_of_item hphase k).mpr (.inl ⟨hk, hke.trans heshi⟩)
    exact .completes true (iff_of_true rfl
      ⟨k, ⟨hlo.trans hk, hke.trans hehi⟩, .inl ⟨hahead, (hfound k hk hke).mpr hbit⟩⟩)
  · refine .goesOn _ (rangeGoesOn_of_drop hrun hphase hsegs hnsegs hcursor.slo_le (Nat.lt_succ_of_le hxe')
      (Nat.succ_le_succ heshi) hdvd fun k hk hkf => ?_)
    have hke := Nat.le_of_lt_succ hk.2
    exact hhit (hprobe.mpr ⟨k, hk.1, hke, (hfound k hk.1 hke).mp hkf⟩)

end ItemStep

/-! ### The run of the sequencer -/

section Run
variable {h : HashFn}

/-- RQ_ITEM, RQ_SEG or RQ_SWAP: one step of a running OVERLAPS (43_range.md rule R399). -/
theorem phaseStep_rangeStep {s : State} (hlegal : legalConfig s.params s.act = true) (hle : queryLo s ≤ queryHi s)
    (hrun : RangeRunning (s.geom h) (queryLo s) (queryHi s) s.seq) :
    RangeStep (s.geom h) (queryLo s) (queryHi s) s (phaseStep h s) := by
  have haddr : (s.geom h).addressable = true := addressable_of_legalConfig hlegal
  unfold phaseStep
  cases hrun.regs with
  | item hphase hsegs hnsegs hcursor =>
    have hready : (s.geom h).layerReady s.seq.layer.toNat = true := by
      simp [Geom.layerReady, haddr, hrun.layer]
    rw [hphase]
    simp only [rqItemStep, hready, if_true]
    split_ifs with hend hcov
    · have hshi : s.seq.cursor = (currentSegment s.seq).shi + 1 := le_antisymm hcursor.le_shi hend
      refine .goesOn _ ⟨⟨hrun.fresh, hrun.layer, .seg rfl ⟨hsegs.valid0, hsegs.seg0, hsegs.seg1, hsegs.segIdx⟩
        (hnsegs.of_cursor_le rfl rfl rfl rfl le_rfl) hshi⟩, fun k _ _ => or_congr (and_congr_left' ?_) Iff.rfl,
        rangeMeasure_lt rfl ?_⟩
      · simp [Sequencer.ahead, hphase, currentSegment]
      · simp only [phaseRank, hphase]
        split_ifs <;> omega
    · exact coveringItem_spec hlegal hle hrun hphase hsegs hnsegs hcursor (Nat.le_of_not_lt hend) hcov
    · obtain ⟨hlo, hhi⟩ := not_or.mp hcov
      exact containedItem_spec hlegal hle hrun hphase hsegs hnsegs hcursor (Nat.le_of_not_lt hend)
        (Nat.le_of_not_lt hlo) (Nat.le_of_not_lt hhi)
  | seg hphase hsegs hnsegs hcursor =>
    rw [hphase]
    exact rqSegStep_spec hrun hphase hsegs hnsegs hcursor
  | swap hphase hnsegs =>
    rw [hphase]
    exact rqSwapStep_spec hrun hphase hnsegs

theorem engineSteps_succ {s t : State} (hstep : engineStepWith h s = .next t) (n : Nat) :
    engineSteps h (n + 1) s = engineSteps h n t := by
  rw [engineSteps, hstep]

/-- A running OVERLAPS completes after finitely many steps with whether a key is open (43_range.md rules R398, R400). -/
theorem rangeRunning_completes {s : State} (hlegal : legalConfig s.params s.act = true)
    (hle : queryLo s ≤ queryHi s) (hrun : RangeRunning (s.geom h) (queryLo s) (queryHi s) s.seq) (r : Bool)
    (hr : r = true ↔ ∃ k, (queryLo s ≤ k ∧ k ≤ queryHi s)
      ∧ (s.geom h).openKey s.cells (queryLo s) (queryHi s) s.seq k) :
    ∃ n q, q.phase = .idle ∧ q.fresh = false ∧ engineSteps h n s = .next ((complete r s).setSeq q) := by
  induction hmeasure : rangeMeasure (s.geom h) s.seq using WellFoundedLT.induction generalizing s with
  | ind measure ih =>
    subst hmeasure
    have hstep : engineStepWith h s = phaseStep h s := engineStepWith_of_not_fresh hrun.fresh h
    generalize hout : phaseStep h s = out at hstep
    have hspec := phaseStep_rangeStep hlegal hle hrun
    rw [hout] at hspec
    cases hspec with
    | completes r' hr' =>
      obtain rfl : r' = r := Bool.eq_iff_iff.mpr (hr'.trans hr.symm)
      exact ⟨1, (complete r' s).seq, rfl, rfl, engineSteps_succ hstep 0⟩
    | goesOn q hq =>
      have hopen : r = true ↔ ∃ k, (queryLo s ≤ k ∧ k ≤ queryHi s)
          ∧ (s.geom h).openKey s.cells (queryLo s) (queryHi s) q k :=
        hr.trans (exists_congr fun k => and_congr_right fun ⟨hlo, hhi⟩ => (hq.openKey k hlo hhi).symm)
      obtain ⟨n, q', hphase, hfresh, hn⟩ := ih _ hq.measure (s := s.setSeq q) hlegal hle hq.running hopen rfl
      exact ⟨n + 1, q', hphase, hfresh, (engineSteps_succ hstep n).trans hn⟩

end Run

/-! ### RQ_START -/

section Start
variable {g : Geom} {lo hi : Nat} (hlegal : legalConfig g.params g.act = true) (q : Sequencer)

theorem rqStart_layer : (rqStart g lo hi q).layer.toNat = g.layers - 1 := by
  have hbound : g.layers < 2 ^ 7 := g.act.l.isLt
  exact (BitVec.toNat_ofNat _ _).trans (Nat.mod_eq_of_lt (lt_of_le_of_lt (Nat.sub_le _ _) hbound))

include hlegal

/-- RQ_START leaves the initial segment and an empty next frontier (43_range.md rules R393, R399). -/
theorem rqStart_running (hle : lo ≤ hi) (hhi : hi < 2 ^ g.keyBits) : RangeRunning g lo hi (rqStart g lo hi q) := by
  have hlayer := rqStart_layer (g := g) (lo := lo) (hi := hi) q
  have hlayers := one_le_layers hlegal
  have hdomain : 2 ^ g.shift (g.layers - 1) ∣ 2 ^ g.keyBits :=
    pow_dvd_pow 2 (shift_le_keyBits hlegal (Nat.sub_le _ _))
  obtain ⟨hhull, -⟩ := hullSegment_sound (g := g) hle le_rfl le_rfl hhi hdomain le_rfl
  have hsound : SegmentSound g lo hi (rqStart g lo hi q).layer.toNat (rqStart g lo hi q).seg0 := by
    rw [hlayer]
    exact hhull
  exact ⟨rfl, by omega, .item rfl ⟨rfl, hsound, (nofun), .inl rfl⟩
    ⟨Nat.zero_le _, fun h => absurd rfl h, by simp [rqStart], by simp [rqStart], (nofun)⟩
    ⟨hsound.slo_dvd, le_rfl, hsound.nonempty.trans (Nat.le_succ _)⟩⟩

/-- Every key of the query is ahead at the coarsest layer (43_range.md rule R393). -/
theorem openKey_rqStart_iff {m : Memory} {k : Nat} (hlo : lo ≤ k) (hhi : k ≤ hi) :
    g.openKey m lo hi (rqStart g lo hi q) k ↔ g.keyFound m lo hi g.layers k := by
  have hslo := alignw_le lo (g.shift (g.layers - 1))
  have hshi := lt_alignw_add hi (g.shift (g.layers - 1))
  have hahead : (rqStart g lo hi q).ahead k := by
    refine (ahead_of_item rfl k).mpr (.inl ⟨?_, ?_⟩)
    · show alignw lo _ ≤ k
      omega
    · show k ≤ alignw hi _ + _ - 1
      omega
  have hnone : ¬ (rqStart g lo hi q).handedDown k := by
    simp [Sequencer.handedDown, Segment.holds, rqStart]
  rw [Geom.openKey, rqStart_layer, Nat.sub_add_cancel (one_le_layers hlegal)]
  simp [hahead, hnone]

end Start

/-- Settles O53: the keys open after RQ_START are those that OVERLAPS_REF follows, and the steps keep them. -/
theorem sequencerAnswersTheReference : Obligations.SequencerAnswersTheReference := by
  intro h s hlegal hfresh hop hpre
  obtain ⟨-, -, -, hle⟩ := (rangeError_none_iff s).mp hpre
  have hhi : queryHi s < 2 ^ (s.geom h).keyBits := keyOf_lt _ _
  have hstart : engineStepWith h s = .next (s.setSeq (rqStart (s.geom h) (queryLo s) (queryHi s) s.seq)) := by
    rw [engineStepWith_of_fresh hfresh, startStep, hop, decode_encode]
    simp only [startRange, hpre]
  have hrun := rqStart_running (g := s.geom h) hlegal s.seq hle hhi
  have hopen : (s.geom h).overlapsRef s.cells (queryLo s) (queryHi s) = true ↔
      ∃ k, (queryLo s ≤ k ∧ k ≤ queryHi s) ∧ (s.geom h).openKey s.cells (queryLo s) (queryHi s)
        (rqStart (s.geom h) (queryLo s) (queryHi s) s.seq) k := by
    refine (overlapsRef_iff (g := s.geom h) hlegal hle hhi).trans
      (exists_congr fun k => and_congr_right fun ⟨hlo, hk⟩ => ?_)
    exact (openKey_rqStart_iff (g := s.geom h) hlegal s.seq hlo hk).symm
  obtain ⟨n, q, hphase, hq, hn⟩ := rangeRunning_completes (h := h)
    (s := s.setSeq (rqStart (s.geom h) (queryLo s) (queryHi s) s.seq)) hlegal hle hrun _ hopen
  exact ⟨n + 1, q, hphase, hq, (engineSteps_succ hstart n).trans hn⟩

end Sys2Proof.Machine
end

section
/-! The register map of the port (10_state.md rule R43, 20_memory.md rule R101): which offset names which register, what
a write to it changes and what a read of it returns. -/

namespace Sys2Proof.Machine

/-! ### The offset map -/

theorem hostRead_of_regAt_none {s : State} {off : Offset} (h : regAt s.params off = none) : hostRead s off = 0 := by
  simp only [hostRead, h]

theorem hostWrite_of_regAt_none {s : State} {off : Offset} (h : regAt s.params off = none) (v : Word) :
    hostWrite s off v = s := by
  simp only [hostWrite, h]

/-- The entries of the offset map, read from the top (rule R43): an offset that names no register is none of the table's,
and CMD and STATUS stand at one offset each. -/
theorem regAt_cases (p : Params) (off : Offset) :
    (regAt p off = none ∧ (off.toNat % 8 ≠ 0
        ∨ (0x060 ≤ off.toNat ∧ ¬ (0x100 ≤ off.toNat ∧ (off.toNat - 0x100) / 8 < p.lMax))))
      ∨ ∃ r, regAt p off = some r ∧ off.toNat % 8 = 0
        ∧ (off.toNat < 0x060 ∨ (0x100 ≤ off.toNat ∧ (off.toNat - 0x100) / 8 < p.lMax))
        ∧ (r = .cmd → off.toNat = 0x010) ∧ (r = .status → off.toNat = 0x018) := by
  generalize hreg : regAt p off = reg
  unfold regAt at hreg
  generalize off.toNat = a at hreg ⊢
  obtain ⟨hmis, rfl⟩ | ⟨hmis, hrest⟩ := ite_eq_iff.mp hreg
  · exact .inl ⟨rfl, .inl hmis⟩
  clear hreg
  iterate 12
    obtain ⟨ha, rfl⟩ | ⟨ha, hrest'⟩ := ite_eq_iff.mp hrest
    · exact .inr ⟨_, rfl, by omega, by omega, by simp [ha], by simp [ha]⟩
    clear hrest
    rename' hrest' => hrest
  obtain ⟨ha, rfl⟩ | ⟨ha, rfl⟩ := ite_eq_iff.mp hrest
  · exact .inr ⟨_, rfl, by omega, .inr ha, nofun, nofun⟩
  · exact .inl ⟨rfl, .inr ⟨by omega, ha⟩⟩

theorem regAt_eq_none {p : Params} {off : Offset}
    (h : off.toNat % 8 ≠ 0 ∨ (0x060 ≤ off.toNat ∧ off.toNat ≤ 0x0FF) ∨ 0x100 + 8 * p.lMax ≤ off.toNat) :
    regAt p off = none := by
  obtain ⟨hnone, -⟩ | ⟨r, -, haligned, hplace, -⟩ := regAt_cases p off
  · exact hnone
  · omega

theorem exists_regAt {p : Params} {off : Offset}
    (h : off.toNat % 8 = 0 ∧ (off.toNat < 0x060 ∨ (0x100 ≤ off.toNat ∧ off.toNat < 0x100 + 8 * p.lMax))) :
    ∃ r, regAt p off = some r := by
  obtain ⟨-, hplace⟩ | ⟨r, hr, -⟩ := regAt_cases p off
  · omega
  · exact ⟨r, hr⟩

theorem offset_of_regAt {p : Params} {off : Offset} {r : Reg} (h : regAt p off = some r) :
    (r = .cmd → off = cmdOffset) ∧ (r = .status → off = statusOffset) := by
  obtain ⟨hnone, -⟩ | ⟨r', hr, -, -, hcmd, hstatus⟩ := regAt_cases p off
  · cases hnone.symm.trans h
  · obtain rfl : r' = r := Option.some.inj (hr.symm.trans h)
    exact ⟨fun h => BitVec.eq_of_toNat_eq (hcmd h), fun h => BitVec.eq_of_toNat_eq (hstatus h)⟩

/-- Only CMD and STATUS have a write that reaches STATUS (rule R43). -/
theorem writeReg_status {r : Reg} (hcmd : r ≠ .cmd) (hstatus : r ≠ .status) (v : Word) (s : State) :
    (writeReg v s r).status = s.status := by
  cases r with
  | cmd => exact absurd rfl hcmd
  | status => exact absurd rfl hstatus
  | _ => rfl

/-- A register that an offset but those of CMD and STATUS names is neither of them. -/
theorem reg_ne_of_offset_ne {p : Params} {off : Offset} {r : Reg} (h : regAt p off = some r) (hcmd : off ≠ cmdOffset)
    (hstatus : off ≠ statusOffset) : r ≠ .cmd ∧ r ≠ .status := by
  obtain ⟨hc, hs⟩ := offset_of_regAt h
  exact ⟨fun hr => hcmd (hc hr), fun hr => hstatus (hs hr)⟩

/-- Settles O6: the cases of the offset map, and the registers whose write reaches STATUS. -/
theorem unmappedOffsetsReadZeroAndIgnoreWrites : Obligations.UnmappedOffsetsReadZeroAndIgnoreWrites := by
  intro s off v
  refine ⟨fun h => ?_, exists_regAt, fun hcmd hstatus => ?_⟩
  · have hnone := regAt_eq_none h
    exact ⟨hostRead_of_regAt_none hnone, hostWrite_of_regAt_none hnone v⟩
  · cases hreg : regAt s.params off with
    | none => rw [hostWrite_of_regAt_none hreg]
    | some r =>
      obtain ⟨hc, hs⟩ := reg_ne_of_offset_ne hreg hcmd hstatus
      rw [hostWrite_of_regAt hreg, writeReg_status hc hs]

/-! ### The mapped offsets, one by one -/

section Offsets
variable (p : Params)

theorem regAt_id : regAt p 0x000 = some .id := rfl

theorem regAt_nMax : regAt p 0x008 = some .nMax := rfl

theorem regAt_inten : regAt p 0x020 = some .inten := rfl

theorem regAt_errDetail : regAt p 0x050 = some .errDetail := rfl

theorem regAt_actN : regAt p 0x058 = some .actN := rfl

/-- CFG_DELTA[j] stands at 0x100 + 8j; the register space ends at 4 KiB. -/
theorem regAt_cfgDelta {j : Nat} (hj : j < p.lMax) (hspace : j < 480) :
    regAt p (BitVec.ofNat 12 (0x100 + 8 * j)) = some (.cfgDelta j) := by
  have hoff : (BitVec.ofNat 12 (0x100 + 8 * j)).toNat = 0x100 + 8 * j := by
    rw [BitVec.toNat_ofNat]
    exact Nat.mod_eq_of_lt (by omega)
  have hindex : (0x100 + 8 * j - 0x100) / 8 = j := by omega
  unfold regAt
  rw [hoff]
  dsimp only
  iterate 13 rw [if_neg (by omega)]
  rw [hindex, if_pos ⟨by omega, hj⟩]

end Offsets

theorem intenWord_eq_and_one (v : Word) : intenWord (v.getLsbD 0) = v &&& 1 := by
  have hone : (1 : Word) = BitVec.twoPow 64 0 := rfl
  unfold intenWord flagBit
  rw [hone, BitVec.and_twoPow]
  rfl

theorem getD_set_self {l : List Word} {j : Nat} (hj : j < l.length) (v : Word) : (l.set j v).getD j 0 = v := by
  simp [hj]

/-- Settles O7: each offset's register, written and read through the map. -/
theorem readsReturnWhatWritesKept : Obligations.ReadsReturnWhatWritesKept := by
  intro s v hlen
  have hdelta {j : Nat} (hj : j < s.params.lMax) (hspace : j < 480) :=
    hostWrite_of_regAt (s := s) (regAt_cfgDelta s.params hj hspace) v
  refine ⟨intenWord_eq_and_one v, rfl, rfl, rfl, rfl, rfl, fun j hj hspace => ?_, rfl, rfl, rfl, rfl, rfl, rfl, rfl, rfl,
    rfl, rfl, rfl, fun j hj hspace => ⟨hdelta hj hspace, hostRead_of_regAt (regAt_cfgDelta s.params hj hspace)⟩,
    rfl, rfl, rfl, rfl, rfl, rfl, rfl, rfl, rfl, rfl, rfl⟩
  calc hostRead (hostWrite s _ v) _ = readReg (hostWrite s _ v) (.cfgDelta j) := by
        rw [hdelta hj hspace]
        exact hostRead_of_regAt (s := writeReg v s (.cfgDelta j)) (regAt_cfgDelta s.params hj hspace)
    _ = (s.cfgDelta.set j v).getD j 0 := by rw [hdelta hj hspace]; rfl
    _ = v := getD_set_self (hlen ▸ hj) v

/-! ### ID, NMAX and ACT_N -/

/-- The three fields of ID do not overlap and fit the register (rule R44). -/
theorem idWord_toNat {p : Params} (hp : p.wf = true) :
    (idWord p).toNat = 1 + 2 ^ 16 * p.keyW.bits + 2 ^ 24 * p.cellB.bits + 2 ^ 32 * p.lMax := by
  have hW := keyBits_bounds p
  have hB := cellBits_bounds p
  have hL := lMax_le_of_wf hp
  unfold idWord
  rw [BitVec.toNat_ofNat, Nat.shiftLeft_eq, Nat.shiftLeft_eq, Nat.shiftLeft_eq]
  omega

/-- Settles O8: the words of the read-only registers. -/
theorem constantRegistersReadTheParameters : Obligations.ConstantRegistersReadTheParameters := by
  intro s hp
  have hactN : hostRead s 0x058 = if s.status.cfgValid then BitVec.ofNat 64 s.act.n else 0 :=
    hostRead_of_regAt (regAt_actN s.params)
  refine ⟨?_, hostRead_of_regAt (regAt_nMax s.params), hostRead_of_regAt (regAt_errDetail s.params), fun hvalid => ?_,
    fun hvalid => ?_, by decide⟩
  · rw [hostRead_of_regAt (regAt_id s.params)]
    exact idWord_toNat hp
  · exact hactN.trans (if_pos hvalid)
  · exact hactN.trans (if_neg (by simp [hvalid]))

/-! ### The STATUS word -/

/-- STATUS bit by bit (rule R47). -/
theorem statusWord_getLsbD (t : Status) {k : Nat} (hk : k < 64) :
    (statusWord t).getLsbD k =
      (t.busy && decide (k = 0) || t.done && decide (k = 1) || t.result && decide (k = 2) || t.err && decide (k = 3)
        || t.cfgValid && decide (k = 4) || t.ovr && decide (k = 5) || decide (8 ≤ k) && t.errCode.getLsbD (k - 8)
        || decide (12 ≤ k) && t.lastOp.getLsbD (k - 12)) := by
  have hfield (n : Nat) (v : BitVec 4) :
      (v.setWidth 64 <<< n).getLsbD k = (decide (n ≤ k) && v.getLsbD (k - n)) := by
    rw [BitVec.getLsbD_shiftLeft, BitVec.getLsbD_setWidth]
    by_cases hn : n ≤ k
    · simp [hk, hn, Nat.not_lt.mpr hn, show k - n < 64 by omega]
    · simp [hn, Nat.lt_of_not_le hn]
  simp (disch := decide) only [statusWord, BitVec.getLsbD_or, flagBit_getLsbD, hfield]

/-- A field of four bits has none from position 4 on. -/
theorem getLsbD_four_of_le (v : BitVec 4) {k : Nat} (hk : 4 ≤ k) : v.getLsbD k = false :=
  BitVec.getLsbD_of_ge v k hk

/-- Settles O9: the bits of the word at each field's places. -/
theorem statusWordHasTheFieldsInTheirBits : Obligations.StatusWordHasTheFieldsInTheirBits := by
  intro t
  refine ⟨?_, ?_, ?_, ?_, ?_, ?_, ?_, ?_, ?_, ?_⟩
  iterate 6 rw [statusWord_getLsbD t (by decide)]; simp
  all_goals
    refine BitVec.eq_of_getLsbD_eq fun k hk => ?_
    rw [BitVec.getLsbD_extractLsb', statusWord_getLsbD t (by omega)]
  · interval_cases k <;> simp
  · interval_cases k <;> simp
  · have herr : t.errCode.getLsbD (12 + k - 8) = false := getLsbD_four_of_le _ (by omega)
    simp [hk, herr, show 8 ≤ 12 + k by omega]
    omega
  · have herr : t.errCode.getLsbD (16 + k - 8) = false := getLsbD_four_of_le _ (by omega)
    have hop : t.lastOp.getLsbD (16 + k - 12) = false := getLsbD_four_of_le _ (by omega)
    simp [herr, hop]
    omega

end Sys2Proof.Machine
end

section
/-! Launch, completion and IRQ (60_exceptions.md rules R452 to R458), and the steps of `issue` and `wait` (30_encoding.md
rules R155 to R157). -/

namespace Sys2Proof.Machine

/-- Settles O2: the four encodings decode to their command; the other four words are illegal by their fields. -/
theorem writtenOutWordsDecode : Obligations.WrittenOutWordsDecode :=
  ⟨⟨decode_encode .config, rfl⟩, ⟨decode_encode .add, rfl⟩, ⟨decode_encode .contains, rfl⟩,
    ⟨decode_encode .overlaps, rfl⟩, by decide, by decide, by decide, by decide⟩

/-! ### What LAUNCH, COMPLETE and RAISE keep -/

theorem hostRegsKept_launch (v : Word) (s : State) : HostRegsKept s (launch v s) := by simp [HostRegsKept]

theorem HostRegsKept.trans {s t u : State} (h : HostRegsKept s t) (k : HostRegsKept t u) : HostRegsKept s u := by
  obtain ⟨h1, h2, h3, h4, h5, h6, h7, h8, h9, h10, h11⟩ := h
  obtain ⟨k1, k2, k3, k4, k5, k6, k7, k8, k9, k10, k11⟩ := k
  exact ⟨k1.trans h1, k2.trans h2, k3.trans h3, k4.trans h4, k5.trans h5, k6.trans h6, k7.trans h7, k8.trans h8,
    k9.trans h9, k10.trans h10, k11.trans h11⟩

/-- What a command raises between its launch and its first cell access ends it in that error. -/
theorem endedInError_raiseError_launch (v : Word) (e : ErrorCode) (det : Word) (s : State) :
    EndedInError v e det s (raiseError e det (launch v s)) :=
  ⟨rfl, rfl, rfl, rfl, rfl, rfl, (hostRegsKept_launch v s).trans (engineKeeps_raiseError e det _).host⟩

/-- Settles O13: the fields of the three updates, and the first phases of the decoded words. -/
theorem launchAndCompletionWriteTheirRegisters : Obligations.LaunchAndCompletionWriteTheirRegisters := by
  intro s v det r e
  have hphase (i : Instr) (hv : v = encode i) : (launch v s).seq.phase = firstPhase i :=
    launchPhase_of_command (decode_eq_command_iff.mpr hv) s
  refine ⟨⟨rfl, hostRegsKept_launch v s, rfl, rfl, launchPhase_ne_idle v s, hphase .config, ?_, hphase .overlaps, rfl,
    rfl⟩, ⟨rfl, (engineKeeps_complete r s).host, rfl, rfl, rfl, rfl, rfl⟩,
    ⟨rfl, (engineKeeps_raiseError e det s).host, rfl, rfl, rfl, rfl, rfl⟩⟩
  rintro (hv | hv)
  · exact hphase .add hv
  · exact hphase .contains hv

/-! ### IRQ -/

theorem irq_of_not_rst {s : State} (h : rstNow s = false) : irq s = (s.status.done && s.doneIE) := by
  simp [irq, h]

theorem irq_of_rst {s : State} (h : rstNow s = true) : irq s = false := by simp [irq, h]

/-- The level of rst is read off the inputs alone (log 17). -/
theorem rstNow_congr {s t : State} (h : t.inputs = s.inputs) : rstNow t = rstNow s := by
  unfold rstNow
  rw [h]

/-- Settles O11: the three clauses of the definition. -/
theorem irqIsDoneAndItsEnable : Obligations.IrqIsDoneAndItsEnable :=
  ⟨fun _ => irq_of_not_rst, rfl, fun _ => irq_of_rst⟩

@[simp] theorem regAt_cmdOffset (p : Params) : regAt p cmdOffset = some .cmd := rfl

@[simp] theorem hostWrite_cmdOffset (s : State) (v : Word) : hostWrite s cmdOffset v = writeCmd v s :=
  hostWrite_of_regAt (regAt_cmdOffset s.params) v

theorem writeCmd_of_busy {s : State} (hb : s.status.busy = true) (v : Word) : writeCmd v s = withOvr s := if_pos hb

theorem writeCmd_of_idle {s : State} (hb : s.status.busy = false) (v : Word) :
    writeCmd v s = (launch v s).drawLatency := if_neg (by simp [hb])

/-- Settles O12: each operation leaves the level of rst, and sets or clears DONE or DONE_IE. -/
theorem irqRisesAndFallsWithDone : Obligations.IrqRisesAndFallsWithDone := by
  intro s v det r e hrst
  have hirq {t : State} {b : Bool} (h : t.inputs = s.inputs) (hb : (t.status.done && t.doneIE) = b) : irq t = b :=
    (irq_of_not_rst ((rstNow_congr h).trans hrst)).trans hb
  have hinten (w : Word) : hostWrite s 0x020 w = { s with doneIE := w.getLsbD 0 } :=
    hostWrite_of_regAt (regAt_inten s.params) w
  refine ⟨hirq rfl rfl, hirq rfl rfl, fun hdone => ?_, ?_, fun hv => ?_, hirq rfl rfl, fun hb => ?_⟩
  · rw [hinten]
    exact hirq rfl (by simp [hdone])
  · rw [hinten]
    exact hirq rfl (by simp)
  · rw [hostWrite_statusOffset, writeStatus_eq_clear]
    exact hirq rfl (by simp [hv])
  · rw [hostWrite_cmdOffset, writeCmd_of_busy hb]
    exact hirq rfl (hirq rfl rfl).symm

/-! ### The steps of `issue` and `wait` -/

theorem step_issue_command {s : State} {v : Word} {rest : List HostOp} {i : Instr} (hin : s.inputs = .issue v :: rest)
    (hb : s.status.busy = false) (hv : decode v = .command i) :
    step s = mapNext pollStatus (exec i (s.setInputs rest)) := by
  simp [step, hin, hb, hv]

theorem step_issue_illegal {s : State} {v : Word} {rest : List HostOp} {why : IllegalWord}
    (hin : s.inputs = .issue v :: rest) (hb : s.status.busy = false) (hv : decode v = .illegal why) :
    step s = .next (pollStatus (runIllegal v (s.setInputs rest))) := by
  simp [step, hin, hb, hv]

theorem clockCycle_of_idle {s : State} (hb : s.status.busy = false) (acc : Option Access) :
    clockCycle acc s = .next (applyAccess s acc) := if_neg (by simp [hb])

theorem clockCycle_of_busy {s : State} (hb : s.status.busy = true) (acc : Option Access) :
    clockCycle acc s = engineCycle (applyAccess s acc) := if_pos hb

/-- Settles O3. -/
theorem stepRunsTheDecodedCommand : Obligations.StepRunsTheDecodedCommand := fun _ _ _ _ => step_issue_command

/-- Settles O4: what an illegal word comes to is an error raised right after its launch. -/
theorem illegalWordEndsInError : Obligations.IllegalWordEndsInError := fun s v rest _ hin hb hv =>
  ⟨runIllegal v (s.setInputs rest), step_issue_illegal hin hb hv, endedInError_raiseError_launch v .illegalCmd 0 _⟩

/-- Settles O5: both are cycles with a read of STATUS, one with the engine idle. -/
theorem waitPollsStatusUntilIdle : Obligations.WaitPollsStatusUntilIdle := by
  intro s rest hin
  refine ⟨fun hb => ?_, fun hb => ?_⟩
  · have hstep : step s = clockCycle (some (.rd statusOffset)) (s.setInputs rest) := by simp [step, hin, hb]
    rw [hstep, clockCycle_of_idle (s := s.setInputs rest) hb, applyAccess_read_statusOffset, setInputs_status]
  · have hstep : step s = clockCycle (some (.rd statusOffset)) s := by simp [step, hin, hb]
    rw [hstep, clockCycle_of_busy hb, applyAccess_read_statusOffset]

end Sys2Proof.Machine
end

section
/-! The commands run whole: what each answers after its launch (42_point.md rules R300 to R302, 43_range.md rules R350,
R351), and what every answer has in common (60_exceptions.md rules R454, R455). -/

namespace Sys2Proof.Machine

/-! ### The errors -/

theorem keyFits_eq_false_iff {p : Params} {v : Word} : keyFits p v = false ↔ 2 ^ p.keyW.bits ≤ v.toNat := by
  simp [keyFits]

section Errors
variable {h : HashFn} {s : State} {e : ErrorCode}

theorem runAdd_of_error (he : pointError s = some e) : runAdd h s = .next (raiseError e 0 s) := by
  simp [runAdd, he]

theorem runContains_of_error (he : pointError s = some e) : runContains h s = .next (raiseError e 0 s) := by
  simp [runContains, he]

theorem runOverlaps_of_error (he : rangeError s = some e) : runOverlaps h s = .next (raiseError e 0 s) := by
  simp [runOverlaps, he]

theorem pointError_of_not_configured (hc : s.status.cfgValid = false) : pointError s = some .notConfigured := if_pos hc

theorem pointError_of_wide_key (hc : s.status.cfgValid = true) (hk : keyFits s.params s.latch.keyA = false) :
    pointError s = some .keyWidth := by
  simp [pointError, hc, hk]

theorem rangeError_of_not_configured (hc : s.status.cfgValid = false) : rangeError s = some .notConfigured := if_pos hc

theorem rangeError_of_wide_key (hc : s.status.cfgValid = true)
    (hk : keyFits s.params s.latch.keyA = false ∨ keyFits s.params s.latch.keyB = false) :
    rangeError s = some .keyWidth := by
  have hboth : (keyFits s.params s.latch.keyA && keyFits s.params s.latch.keyB) = false :=
    Bool.and_eq_false_iff.mpr hk
  simp [rangeError, hc, hboth]

theorem rangeError_of_wrong_order (hc : s.status.cfgValid = true) (hlo : keyFits s.params s.latch.keyA = true)
    (hhi : keyFits s.params s.latch.keyB = true) (hord : queryHi s < queryLo s) : rangeError s = some .rangeOrder := by
  simp [rangeError, hc, hlo, hhi, hord]

end Errors

/-- ADD and CONTAINS raise the first error of their launched state. -/
theorem exec_point_of_error {s : State} {i : Instr} (hi : i = .add ∨ i = .contains) {e : ErrorCode}
    (he : pointError (launch (encode i) s) = some e) :
    ∃ t, exec i s = .next t ∧ EndedInError (encode i) e 0 s t := by
  refine ⟨_, ?_, endedInError_raiseError_launch (encode i) e 0 s⟩
  rcases hi with rfl | rfl
  · exact runAdd_of_error he
  · exact runContains_of_error he

/-- Settles O27: the two errors of the launched state; a 64-bit operand has no bit at 64 or above. -/
theorem pointCommandsCheckTheirPreconditions : Obligations.PointCommandsCheckTheirPreconditions :=
  ⟨fun _ _ hi =>
    ⟨fun hc => exec_point_of_error hi (pointError_of_not_configured hc),
      fun hc hk => exec_point_of_error hi (pointError_of_wide_key hc (keyFits_eq_false_iff.mpr hk))⟩,
    fun v => v.isLt⟩

/-- OVERLAPS raises the first error of its launched state. -/
theorem exec_overlaps_of_error {s : State} {e : ErrorCode} (he : rangeError (launch 4 s) = some e) :
    ∃ t, exec .overlaps s = .next t ∧ EndedInError 4 e 0 s t :=
  ⟨_, runOverlaps_of_error he, endedInError_raiseError_launch 4 e 0 s⟩

/-- Settles O29: the three errors of the launched state. -/
theorem overlapsChecksItsPreconditions : Obligations.OverlapsChecksItsPreconditions := by
  intro s
  refine ⟨fun hc => exec_overlaps_of_error (rangeError_of_not_configured hc), fun hc hk => ?_,
    fun hc hlo hhi hord => ?_⟩
  · exact exec_overlaps_of_error
      (rangeError_of_wide_key hc (hk.imp keyFits_eq_false_iff.mpr keyFits_eq_false_iff.mpr))
  · have hlo : keyFits s.params s.opa = true := decide_eq_true hlo
    have hhi : keyFits s.params s.opb = true := decide_eq_true hhi
    refine exec_overlaps_of_error (rangeError_of_wrong_order hc hlo hhi ?_)
    simpa [queryLo, queryHi, keyOf_of_fits hlo, keyOf_of_fits hhi] using hord

/-! ### The answers -/

section Answers
variable {h : HashFn} {s : State}

theorem runAdd_of_ok (hpre : pointError s = none) (ha : (s.geom h).addressable = true) :
    runAdd h s = .next (complete false (s.setCells ((s.geom h).addKey s.cells (pointKey s)))) := by
  simp [runAdd, hpre, ha]

theorem runContains_of_ok (hpre : pointError s = none) (ha : (s.geom h).addressable = true) :
    runContains h s = .next (complete ((s.geom h).containsKey s.cells (pointKey s)) s) := by
  simp [runContains, hpre, ha]

theorem runOverlaps_of_ok (hpre : rangeError s = none) (ha : (s.geom h).addressable = true) :
    runOverlaps h s = .next (complete ((s.geom h).overlapsRef s.cells (queryLo s) (queryHi s)) s) := by
  simp [runOverlaps, hpre, ha]

end Answers

/-- What a completion of a launched command keeps of the host's registers. -/
theorem hostRegsKept_complete_launch (r : Bool) (v : Word) (s : State) (m : Memory) :
    HostRegsKept s (complete r ((launch v s).setCells m)) :=
  (hostRegsKept_launch v s).trans ((engineKeeps_setCells _ m).trans (engineKeeps_complete r _)).host

/-- Settles O25: the launched ADD has no error, and its loop sets the located bits. -/
theorem addSetsTheKeysBits : Obligations.AddSetsTheKeysBits := by
  intro s hc hk ha
  have hpre : pointError (launch 2 s) = none := (pointError_none_iff _).mpr ⟨hc, hk⟩
  exact ⟨_, runAdd_of_ok hpre ha, rfl, rfl, rfl, rfl, rfl, hostRegsKept_complete_launch false 2 s _,
    fun _ _ => bit_addKey_iff⟩

/-- Settles O26: the launched CONTAINS has no error, and its loop probes the located bits. -/
theorem containsAnswersWhetherEveryBitIsSet : Obligations.ContainsAnswersWhetherEveryBitIsSet := by
  intro s hc hk ha
  have hpre : pointError (launch 3 s) = none := (pointError_none_iff _).mpr ⟨hc, hk⟩
  refine ⟨_, runContains_of_ok hpre ha, rfl, rfl, rfl, rfl, rfl, rfl,
    hostRegsKept_complete_launch _ 3 s s.cells, ?_⟩
  exact containsKey_iff.trans (forall₂_congr fun i _ => decide_eq_true_iff)

/-- Settles O28: the launched OVERLAPS has no error, and its keys are its operands. -/
theorem overlapsAnswersTheReference : Obligations.OverlapsAnswersTheReference := by
  intro s hc hlo hhi hord ha
  have hkeyLo : queryLo (launch (encode .overlaps) s) = s.opa.toNat := keyOf_of_fits hlo
  have hkeyHi : queryHi (launch (encode .overlaps) s) = s.opb.toNat := keyOf_of_fits hhi
  have hpre : rangeError (launch (encode .overlaps) s) = none :=
    (rangeError_none_iff _).mpr ⟨hc, hlo, hhi, by rw [hkeyLo, hkeyHi]; exact hord⟩
  refine ⟨_, runOverlaps_of_ok hpre ha, ?_, rfl, rfl, rfl, rfl, rfl, hostRegsKept_complete_launch _ 4 s s.cells⟩
  rw [hkeyLo, hkeyHi]
  rfl

/-! ### Every answer -/

/-- An answer of a command on `s`, which was launched as `l`: it ends in an error with the filter as it was, or completes
with another filter and CFG_VALID, all else as the launch left it. -/
theorem exec_next {i : Instr} {s t : State} (ht : exec i s = .next t) :
    (∃ e det, t = raiseError e det (launch (encode i) s))
      ∨ ∃ r m, t = complete r ((launch (encode i) s).setCells m)
        ∨ t = complete r (commit ((launch (encode i) s).setCells m)) := by
  cases i with
  | config =>
    obtain rfl := Host.Outcome.next.inj ht
    obtain ⟨-, hrun⟩ | ⟨-, hrun⟩ := runConfig_cases (launch (encode .config) s) <;> rw [hrun]
    · exact .inl ⟨_, _, rfl⟩
    · exact .inr ⟨_, _, .inr rfl⟩
  | add =>
    obtain ⟨e, -, rfl⟩ | ⟨-, -, rfl⟩ := runAdd_next (s := launch (encode .add) s) ht
    · exact .inl ⟨_, _, rfl⟩
    · exact .inr ⟨_, _, .inl rfl⟩
  | contains =>
    obtain ⟨e, -, rfl⟩ | ⟨-, -, rfl⟩ := runContains_next (s := launch (encode .contains) s) ht
    · exact .inl ⟨_, _, rfl⟩
    · exact .inr ⟨_, s.cells, .inl rfl⟩
  | overlaps =>
    obtain ⟨e, -, rfl⟩ | ⟨-, -, rfl⟩ := runOverlaps_next (s := launch (encode .overlaps) s) ht
    · exact .inl ⟨_, _, rfl⟩
    · exact .inr ⟨_, s.cells, .inl rfl⟩

theorem errorNumber_ne_zero (e : ErrorCode) : errorNumber e ≠ 0 := by cases e <;> decide

/-- Settles O48: an answer is a completion or an error completion of the launched command. -/
theorem everyCommandEndsDone : Obligations.EveryCommandEndsDone := by
  intro i s t ht
  have hirq {u : State} (hhost : HostRegsKept s u) (hdone : u.status.done = true) (hrst : rstNow s = false) :
      irq u = s.doneIE := by
    obtain ⟨-, hie, -, -, -, -, -, -, hin, -⟩ := hhost
    rw [irq_of_not_rst ((rstNow_congr hin).trans hrst), hdone, hie, Bool.true_and]
  obtain ⟨e, det, rfl⟩ | ⟨r, m, rfl | rfl⟩ := exec_next ht
  · have hhost := (hostRegsKept_launch (encode i) s).trans (engineKeeps_raiseError e det _).host
    exact ⟨rfl, rfl, rfl, rfl, iff_of_true rfl (errorNumber_ne_zero e), hhost, rfl, hirq hhost rfl,
      fun _ => ⟨rfl, rfl, rfl, rfl⟩⟩
  · have hhost := hostRegsKept_complete_launch r (encode i) s m
    exact ⟨rfl, rfl, rfl, rfl, iff_of_false nofun (fun h => h rfl), hhost, rfl, hirq hhost rfl, nofun⟩
  · have hhost : HostRegsKept s (complete r (commit ((launch (encode i) s).setCells m))) :=
      hostRegsKept_complete_launch r (encode i) s m
    exact ⟨rfl, rfl, rfl, rfl, iff_of_false nofun (fun h => h rfl), hhost, rfl, hirq hhost rfl, nofun⟩

end Sys2Proof.Machine
end

section
/-! The engine does not see the host's registers (60_exceptions.md rule R453, 70_reset_and_hazards.md rule R512): an update
of a register that no phase step reads or writes can be made before a phase step or after it. -/

namespace Sys2Proof.Machine

/-- An update of the state that no phase step sees: it keeps what phase steps read, and commutes with what they write. -/
structure EngineBlind (f : State → State) : Prop where
  params : ∀ s, (f s).params = s.params
  cfgValid : ∀ s, (f s).status.cfgValid = s.status.cfgValid
  act : ∀ s, (f s).act = s.act
  cells : ∀ s, (f s).cells = s.cells
  latch : ∀ s, (f s).latch = s.latch
  seq : ∀ s, (f s).seq = s.seq
  setSeq : ∀ s q, f (s.setSeq q) = (f s).setSeq q
  setCells : ∀ s m, f (s.setCells m) = (f s).setCells m
  complete : ∀ r s, f (complete r s) = complete r (f s)
  raiseError : ∀ e det s, f (raiseError e det s) = raiseError e det (f s)
  commit : ∀ s, f (commit s) = commit (f s)

namespace EngineBlind
variable {f : State → State} (hf : EngineBlind f) (h : HashFn) (s : State)
include hf

/-! ### What phase steps read -/

theorem validateLatch_eq : validateLatch (f s) = validateLatch s := by
  unfold validateLatch; rw [hf.params, hf.latch]

theorem latchedCells_eq : latchedCells (f s) = latchedCells s := by
  unfold latchedCells; rw [hf.params, hf.latch]

theorem pointKey_eq : pointKey (f s) = pointKey s := by unfold pointKey; rw [hf.params, hf.latch]

theorem queryLo_eq : queryLo (f s) = queryLo s := by unfold queryLo; rw [hf.params, hf.latch]

theorem queryHi_eq : queryHi (f s) = queryHi s := by unfold queryHi; rw [hf.params, hf.latch]

theorem geom_eq : (f s).geom h = s.geom h := by unfold State.geom; rw [hf.params, hf.act]

theorem pointError_eq : pointError (f s) = pointError s := by
  unfold pointError; rw [hf.params, hf.latch, hf.cfgValid]

theorem rangeError_eq : rangeError (f s) = rangeError s := by
  unfold rangeError; rw [hf.params, hf.latch, hf.cfgValid, hf.queryLo_eq, hf.queryHi_eq]

/-! ### The first step -/

theorem startConfig_comm : startConfig (f s) = f (startConfig s) := by
  unfold startConfig
  rw [hf.validateLatch_eq, hf.seq, apply_ite f, hf.raiseError, hf.setSeq]

theorem startPoint_comm : startPoint (f s) = f (startPoint s) := by
  unfold startPoint
  rw [hf.pointError_eq, hf.seq]
  cases pointError s with
  | some e => exact (hf.raiseError _ _ _).symm
  | none => exact (hf.setSeq _ _).symm

theorem startRange_comm : startRange h (f s) = f (startRange h s) := by
  unfold startRange
  rw [hf.rangeError_eq, hf.geom_eq, hf.queryLo_eq, hf.queryHi_eq, hf.seq]
  cases rangeError s with
  | some e => exact (hf.raiseError _ _ _).symm
  | none => exact (hf.setSeq _ _).symm

theorem startStep_comm : startStep h (f s) = f (startStep h s) := by
  unfold startStep
  rw [hf.latch]
  split
  case h_1 => exact (hf.raiseError _ _ _).symm
  case h_2 => exact hf.startConfig_comm s
  case h_3 => exact hf.startPoint_comm s
  case h_4 => exact hf.startPoint_comm s
  case h_5 => exact hf.startRange_comm h s

/-! ### The steps of the phases -/

theorem cfgZeroStep_comm : cfgZeroStep (f s) = f (cfgZeroStep s) := by
  unfold cfgZeroStep
  rw [hf.latchedCells_eq, hf.seq, hf.cells, apply_ite f, hf.setSeq, hf.complete, hf.commit, hf.setCells]

theorem nextLayer_comm (g : Geom) (r : Bool) : nextLayer g r (f s) = f (nextLayer g r s) := by
  unfold nextLayer
  rw [hf.seq, apply_ite f, hf.complete, hf.setSeq]

theorem addLayer_comm (g : Geom) : addLayer g (f s) = f (addLayer g s) := by
  unfold addLayer
  rw [hf.seq, hf.cells, hf.pointKey_eq, ← hf.setCells, hf.nextLayer_comm]

theorem containsLayer_comm (g : Geom) : containsLayer g (f s) = f (containsLayer g s) := by
  unfold containsLayer
  rw [hf.seq, hf.cells, hf.pointKey_eq, hf.nextLayer_comm, apply_ite f, hf.complete]

theorem ptLayerStep_comm : ptLayerStep h (f s) = mapNext f (ptLayerStep h s) := by
  unfold ptLayerStep
  rw [hf.geom_eq, hf.seq, hf.latch, hf.addLayer_comm, hf.containsLayer_comm]
  split_ifs <;> rfl

theorem coveringItem_comm (g : Geom) (lo hi i x xe : Nat) :
    coveringItem g lo hi i x xe (f s) = mapNext f (coveringItem g lo hi i x xe s) := by
  unfold coveringItem
  rw [hf.seq, hf.cells, ← hf.setSeq]
  split_ifs
  · rfl
  · cases appendSegment (hullSegment (max lo x) (min hi xe) (g.shift (i - 1))) s.seq with
    | some q => exact congrArg Host.Outcome.next (hf.setSeq _ _).symm
    | none => rfl
  · rfl

theorem containedItem_comm (g : Geom) (i x e : Nat) : containedItem g i x e (f s) = f (containedItem g i x e s) := by
  unfold containedItem
  rw [hf.seq, hf.cells, apply_ite f, hf.complete, hf.setSeq]

theorem rqItemStep_comm (g : Geom) (lo hi : Nat) : rqItemStep g lo hi (f s) = mapNext f (rqItemStep g lo hi s) := by
  unfold rqItemStep
  rw [hf.seq]
  dsimp only
  rw [hf.coveringItem_comm, hf.containedItem_comm, ← hf.setSeq]
  split_ifs <;> rfl

theorem rqSegStep_comm : rqSegStep (f s) = f (rqSegStep s) := by
  unfold rqSegStep
  rw [hf.seq, apply_ite f, hf.setSeq, hf.setSeq]

theorem rqSwapStep_comm : rqSwapStep (f s) = f (rqSwapStep s) := by
  unfold rqSwapStep
  rw [hf.seq, apply_ite f, hf.complete, hf.setSeq]

theorem phaseStep_comm : phaseStep h (f s) = mapNext f (phaseStep h s) := by
  unfold phaseStep
  rw [hf.seq]
  cases s.seq.phase with
  | idle => rfl
  | cfgZero => exact congrArg Host.Outcome.next (hf.cfgZeroStep_comm s)
  | ptLayer => exact hf.ptLayerStep_comm h s
  | rqSeg => exact congrArg Host.Outcome.next (hf.rqSegStep_comm s)
  | rqItem =>
    dsimp only
    rw [hf.geom_eq, hf.queryLo_eq, hf.queryHi_eq, hf.rqItemStep_comm]
  | rqSwap => exact congrArg Host.Outcome.next (hf.rqSwapStep_comm s)

/-- A phase step before the update and after it. -/
theorem engineStepWith_comm : engineStepWith h (f s) = mapNext f (engineStepWith h s) := by
  unfold engineStepWith
  rw [hf.seq, hf.startStep_comm, hf.phaseStep_comm]
  split_ifs <;> rfl

/-- A cycle of the engine before the update and after it, where the update keeps the latency too. -/
theorem engineCycle_comm (hstall : ∀ s, (f s).stall = s.stall) (hdraw : ∀ s, f s.drawLatency = (f s).drawLatency)
    (htick : ∀ s n, f { s with stall := n } = { f s with stall := n }) :
    engineCycle (f s) = mapNext f (engineCycle s) := by
  unfold engineCycle engineStep
  rw [hstall, hf.engineStepWith_comm]
  split_ifs
  · cases engineStepWith Config.hash s with
    | next t => exact congrArg Host.Outcome.next (hdraw t).symm
    | fault r => rfl
    | refused r => rfl
  · exact congrArg Host.Outcome.next (htick s _).symm

end EngineBlind

/-! ### The updates of the host -/

theorem engineBlind_id : EngineBlind id := by constructor <;> intros <;> rfl

theorem engineBlind_withOvr : EngineBlind withOvr := by constructor <;> intros <;> rfl

/-- No phase step reads or writes a register that the host stages (70_reset_and_hazards.md rule R512). -/
theorem engineBlind_writeReg {r : Reg} (hcmd : r ≠ .cmd) (hstatus : r ≠ .status) (v : Word) :
    EngineBlind fun s => writeReg v s r := by
  cases r with
  | cmd => exact absurd rfl hcmd
  | status => exact absurd rfl hstatus
  | _ => constructor <;> intros <;> rfl

theorem writeReg_drawLatency {r : Reg} (hcmd : r ≠ .cmd) (v : Word) (s : State) :
    writeReg v s.drawLatency r = (writeReg v s r).drawLatency := by
  cases r with
  | cmd => exact absurd rfl hcmd
  | _ => rfl

theorem writeReg_stall {r : Reg} (hcmd : r ≠ .cmd) (v : Word) (s : State) (n : Nat) :
    (writeReg v s r).stall = s.stall ∧ writeReg v { s with stall := n } r = { writeReg v s r with stall := n } := by
  cases r with
  | cmd => exact absurd rfl hcmd
  | _ => exact ⟨rfl, rfl⟩

/-- A phase step keeps the parameters, and so the offset map. -/
theorem engineCycle_params {s t : State} (ht : engineCycle s = .next t) : t.params = s.params := by
  unfold engineCycle at ht
  split_ifs at ht
  · obtain ⟨u, hu, rfl⟩ := mapNext_eq_next.mp ht
    obtain ⟨hparams, -⟩ := (engineKeeps_step hu).host
    exact hparams
  · exact (Host.Outcome.next.inj ht) ▸ rfl

theorem mapNext_congr {f g : State → State} {o : Host.Outcome State Fault Refusal}
    (h : ∀ t, o = .next t → f t = g t) : mapNext f o = mapNext g o := by
  cases o with
  | next t => exact congrArg Host.Outcome.next (h t rfl)
  | fault r => rfl
  | refused r => rfl

/-- Settles O14: an accepted write is the launch; a dropped one sets OVR, which the engine does not see. -/
theorem cmdWriteIsAcceptedOrDropped : Obligations.CmdWriteIsAcceptedOrDropped := by
  intro s v
  have haccess : applyAccess s (some (.wr cmdOffset v)) = writeCmd v s := hostWrite_cmdOffset s v
  refine ⟨fun hb => ?_, fun hb => ?_⟩
  · rw [clockCycle_of_idle hb, haccess, writeCmd_of_idle hb]
  · rw [clockCycle_of_busy hb, clockCycle_of_busy hb, haccess, writeCmd_of_busy hb]
    exact engineBlind_withOvr.engineCycle_comm s (fun _ => rfl) (fun _ => rfl) (fun _ _ => rfl)

/-- Settles O15: the staged register is one that the engine does not see. -/
theorem stagedWritesDoNotTouchTheRunningCommand : Obligations.StagedWritesDoNotTouchTheRunningCommand := by
  intro s off v hb hcmd hstatus
  rw [clockCycle_of_busy hb, clockCycle_of_busy hb]
  show engineCycle (hostWrite s off v) = mapNext (fun t => hostWrite t off v) (engineCycle s)
  cases hreg : regAt s.params off with
  | none =>
    rw [hostWrite_of_regAt_none hreg]
    have hnone (t : State) (ht : engineCycle s = .next t) : hostWrite t off v = id t :=
      hostWrite_of_regAt_none (engineCycle_params ht ▸ hreg) v
    rw [mapNext_congr hnone]
    exact engineBlind_id.engineCycle_comm s (fun _ => rfl) (fun _ => rfl) (fun _ _ => rfl)
  | some r =>
    obtain ⟨hc, hs⟩ := reg_ne_of_offset_ne hreg hcmd hstatus
    rw [hostWrite_of_regAt hreg]
    have hsome (t : State) (ht : engineCycle s = .next t) : hostWrite t off v = writeReg v t r :=
      hostWrite_of_regAt (engineCycle_params ht ▸ hreg) v
    rw [mapNext_congr hsome]
    exact (engineBlind_writeReg hc hs v).engineCycle_comm s (fun t => (writeReg_stall hc v t 0).1)
      (writeReg_drawLatency hc v) (fun t n => (writeReg_stall hc v t n).2)

end Sys2Proof.Machine
end

section
/-! The datapath function by function: the bytes of a key (00_scope.md rule R21), the double hash (41_hash_locate.md rules
R251 to R254), and LOCATE in its two regimes (rules R260, R261, R263). -/

namespace Sys2Proof.Machine

/-- Settles O37: byte j is the key shifted by 8j, cut to 8 bits. -/
theorem keyBytesAreLittleEndian : Obligations.KeyBytesAreLittleEndian := by
  intro w v
  refine ⟨by simp [leBytes], fun j hj b hb => ?_⟩
  have hbyte : (leBytes w v).getD j 0 = BitVec.ofNat 8 (v >>> (8 * j)) := by simp [leBytes, hj]
  rw [hbyte, BitVec.getLsbD_ofNat, Nat.testBit_shiftRight]
  simp [hb]

theorem ofNat_wrap64 (n : Nat) : BitVec.ofNat 64 (wrap64 n) = BitVec.ofNat 64 n :=
  BitVec.eq_of_toNat_eq (by simp [wrap64])

/-- Settles O36: wrapping the sum is 64-bit arithmetic on its terms. -/
theorem layerHashIsTheSeededDoubleHash : Obligations.LayerHashIsTheSeededDoubleHash := by
  intro g i k
  refine ⟨?_, Nat.mod_lt _ (by decide)⟩
  unfold Geom.layerHash
  rw [ofNat_wrap64, BitVec.ofNat_add, BitVec.ofNat_add, BitVec.ofNat_mul]
  unfold Geom.hashA Geom.hashB
  rw [BitVec.ofNat_toNat, BitVec.ofNat_toNat, BitVec.setWidth_eq, BitVec.setWidth_eq]
  rfl

/-! ### The large-word regime -/

/-- Widths are powers of two, so that a large word holds a whole number of cells (41_hash_locate.md rule R261). -/
theorem cellBits_dvd_wordWidth {g : Geom} {i : Nat} (h : g.cellBits < g.wordWidth i) : g.cellBits ∣ g.wordWidth i := by
  obtain ⟨e, he⟩ : ∃ e, g.cellBits = 2 ^ e := by
    unfold Geom.cellBits
    cases g.params.cellB with
    | b32 => exact ⟨5, rfl⟩
    | b64 => exact ⟨6, rfl⟩
    | b128 => exact ⟨7, rfl⟩
  unfold Geom.wordWidth at *
  rw [he] at h ⊢
  exact pow_dvd_pow 2 ((Nat.pow_lt_pow_iff_right (by decide)).mp h).le

theorem cellBits_pos (g : Geom) : 0 < g.cellBits := by
  have hb := cellBits_bounds g.params
  unfold Geom.cellBits
  omega

/-- A bit of a large word: the word's cells before it, then the offset (41_hash_locate.md rule R261). -/
theorem bitIndex_of_large {g : Geom} {i : Nat} (h : g.cellBits < g.wordWidth i) (k : Nat) :
    g.bitIndex i k = g.cellBits * (g.wordIndex i k * (g.wordWidth i / g.cellBits)) + g.offset i k := by
  unfold Geom.bitIndex
  rw [Nat.mul_left_comm, Nat.mul_div_cancel' (cellBits_dvd_wordWidth h)]

/-- Settles O39: the bit index divided by B is the cell, and its remainder the position, in either regime. -/
theorem locateAgreesWithBothRegimes : Obligations.LocateAgreesWithBothRegimes := by
  intro g i k
  refine ⟨fun hsmall => ?_, fun hlarge => ?_, fun haddr hi => ?_⟩
  · unfold Geom.locate Geom.locateSmall
    rw [bitIndex_div_of_small hsmall, bitIndex_mod_of_small hsmall]
  · unfold Geom.locate Geom.locateLarge
    rw [bitIndex_of_large hlarge, Nat.mul_add_div (cellBits_pos g), Nat.mul_add_mod]
  · exact ⟨wordBit_cell_lt haddr hi k k, _, Nat.mod_lt _ (cellBits_pos g), rfl⟩

end Sys2Proof.Machine
end

section
/-! The dyadic decomposition and OVERLAPS_REF (43_range.md rules R356, R359, R367, R370): which intervals `advance` gives,
and the closed form of the reference algorithm. -/

namespace Sys2Proof.Machine

/-! ### The intervals of `advance` -/

/-- Checks in ascending order, none of them meeting the next. -/
def Ascending (cs : List Check) : Prop := cs.Pairwise fun c d => c.high < d.low

section Advance
variable {lo hi : Nat}

/-- The halves of a check stand in ascending order inside it (43_range.md rule R355). -/
theorem split1_ascending {w : Nat} {c : Check} (hc : c.dyadic (w + 1)) :
    Ascending (split1 lo hi c) ∧ ∀ d ∈ split1 lo hi c, c.low ≤ d.low ∧ d.high ≤ c.high := by
  obtain ⟨hmid, hhigh⟩ := hc.mid_eq
  have hpos := Nat.two_pow_pos w
  refine ⟨?_, fun d hd => ?_⟩
  · unfold split1 Ascending
    split <;> split_ifs <;> simp <;> omega
  · rcases eq_half_of_mem_split1 hd with h | h <;> rw [h] <;> dsimp only <;> omega

theorem Ascending.advance {w n : Nat} {cs : List Check} (hcs : ChecksOk lo hi (w + n) cs) (h : Ascending cs) :
    Ascending (advance lo hi n cs) := by
  induction n generalizing cs with
  | zero => exact h
  | succ n ih =>
    refine ih hcs.split1 (List.pairwise_flatMap.mpr ⟨fun c hc => (split1_ascending (hcs c hc).1).1, ?_⟩)
    refine h.imp_of_mem fun {c c'} hc hc' hlt d hd d' hd' => ?_
    have hin := (split1_ascending (hcs c hc).1).2 d hd
    have hin' := (split1_ascending (hcs c' hc').1).2 d' hd'
    omega

theorem nodup_low_of_ascending {w : Nat} {cs : List Check} (hcs : ChecksOk lo hi w cs) (h : Ascending cs) :
    (cs.map Check.low).Nodup := by
  refine List.pairwise_map.mpr (h.imp_of_mem fun {c d} hc _ hlt => ?_)
  have hwidth := (hcs c hc).1.2
  have hpos := Nat.two_pow_pos w
  omega

/-- An interval of `advance` is the bit span of each key of the query that it holds, and lies in the check. -/
theorem mem_advance_inside {w n : Nat} {c d : Check} (hle : lo ≤ hi) (hc : ChecksOk lo hi (w + n) [c])
    (hd : d ∈ advance lo hi n [c]) : c.low ≤ d.low ∧ d.high ≤ c.high := by
  obtain ⟨hdy, htag⟩ := hc.advance d hd
  obtain ⟨hcdy, -⟩ := checksOk_singleton.mp hc
  obtain ⟨hlow, hhigh⟩ := Check.meets hdy htag hle
  have hpos := Nat.two_pow_pos w
  have hwidth := hdy.2
  have hkey : d.holds (max d.low lo) := by unfold Check.holds; omega
  have hin : c.holds (max d.low lo) :=
    covers_singleton.mp ((covers_advance_iff hc (by omega) (by omega)).mp ⟨d, hd, hkey⟩)
  have hdvd : 2 ^ w ∣ 2 ^ (w + n) := pow_dvd_pow 2 (Nat.le_add_right w n)
  have hstart : 2 ^ w ∣ c.low := hdvd.trans (Nat.dvd_of_mod_eq_zero hcdy.1)
  have hend : c.low + 2 ^ (w + n) = c.high + 1 := by
    have hpos' := Nat.two_pow_pos (w + n)
    have := hcdy.2
    omega
  rw [hwidth, hdy.low_eq hkey]
  have hlow' := le_alignw_of_dvd hstart hin.1
  have hhigh' := alignw_add_le_of_dvd (hend ▸ hstart.add hdvd) (Nat.lt_succ_of_le hin.2)
  omega

/-- Settles O34: the intervals are those of the keys of the query in the check, and they ascend. -/
theorem advanceGivesTheExactChildren : Obligations.AdvanceGivesTheExactChildren := by
  intro lo hi w n c hle hn hdy htag
  obtain ⟨w, rfl⟩ := Nat.exists_eq_add_of_le' hn
  rw [Nat.add_sub_cancel]
  have hc : ChecksOk lo hi (w + n) [c] := checksOk_singleton.mpr ⟨hdy, htag⟩
  have hpos := Nat.two_pow_pos w
  refine ⟨fun d hd => (hc.advance d hd).1, fun a => ⟨?_, ?_⟩,
    nodup_low_of_ascending hc.advance (Ascending.advance hc (List.pairwise_singleton _ _))⟩
  · rintro ⟨d, hd, rfl⟩
    obtain ⟨hddy, hdtag⟩ := hc.advance d hd
    obtain ⟨hlow, hhigh⟩ := Check.meets hddy hdtag hle
    obtain ⟨hin, hin'⟩ := mem_advance_inside hle hc hd
    have hwidth := hddy.2
    exact ⟨hddy.1, hin, by omega, hlow, by omega⟩
  · rintro ⟨hmod, hlow, hhigh, hahi, hloa⟩
    have hholds : c.holds (max a lo) := by unfold Check.holds; omega
    obtain ⟨d, hd, hk⟩ := (covers_advance_iff hc (k := max a lo) (by omega) (by omega)).mpr (covers_singleton.mpr hholds)
    refine ⟨d, hd, ?_⟩
    rw [(hc.advance d hd).1.low_eq hk]
    exact (eq_alignw_of_dvd (Nat.dvd_of_mod_eq_zero hmod) (by omega) (by omega)).symm

end Advance

/-! ### The closed form -/

/-- A key is found exactly where its bits are set from some layer up whose bit span lies in the query. -/
theorem keyFound_iff {g : Geom} {m : Memory} {lo hi n k : Nat} :
    g.keyFound m lo hi n k ↔
      ∃ c, c < n ∧ g.spanInside lo hi c k = true ∧ ∀ j, c ≤ j → j < n → g.bitProbe m j k = true := by
  induction n with
  | zero => simp [Geom.keyFound]
  | succ i ih =>
    rw [Geom.keyFound, ih]
    constructor
    · rintro ⟨hbit, hin | ⟨c, hc, hin, hbits⟩⟩
      · refine ⟨i, Nat.lt_succ_self i, hin, fun j hij hji => ?_⟩
        obtain rfl : j = i := by omega
        exact hbit
      · refine ⟨c, Nat.lt_succ_of_lt hc, hin, fun j hcj hji => ?_⟩
        rcases Nat.lt_succ_iff_lt_or_eq.mp hji with hj | rfl
        · exact hbits j hcj hj
        · exact hbit
    · rintro ⟨c, hc, hin, hbits⟩
      refine ⟨hbits i (by omega) (Nat.lt_succ_self i), ?_⟩
      rcases Nat.lt_succ_iff_lt_or_eq.mp hc with hc | rfl
      · exact .inr ⟨c, hc, hin, fun j hcj hj => hbits j hcj (Nat.lt_succ_of_lt hj)⟩
      · exact .inl hin

section ClosedForm
variable {g : Geom} {m : Memory} {lo hi k : Nat} (hlegal : legalConfig g.params g.act = true)
include hlegal

/-- The coarsest layer whose bit span lies in the query asks for the fewest bits (43_range.md rule R367). -/
theorem keyFound_iff_coarsest (hlo : lo ≤ k) (hhi : k ≤ hi) :
    g.keyFound m lo hi g.layers k ↔
      ∀ j, g.coarsestInside lo hi k ≤ j → j < g.layers → g.bitProbe m j k = true := by
  have hlayers := one_le_layers hlegal
  have hspec : g.spanInside lo hi (g.coarsestInside lo hi k) k = true :=
    Nat.findGreatest_spec (P := fun i => g.spanInside lo hi i k = true) (Nat.zero_le _)
      (spanInside_zero hlegal hlo hhi)
  have hle : g.coarsestInside lo hi k ≤ g.layers - 1 := Nat.findGreatest_le _
  rw [keyFound_iff]
  constructor
  · rintro ⟨c, hc, hin, hbits⟩ j hj hjl
    have hcoarsest : c ≤ g.coarsestInside lo hi k := Nat.le_findGreatest (by omega) hin
    exact hbits j (hcoarsest.trans hj) hjl
  · intro hbits
    exact ⟨g.coarsestInside lo hi k, by omega, hspec, hbits⟩

/-- Every bit span lies in the whole domain (43_range.md rule R370). -/
theorem spanInside_domain {i : Nat} (hi : i < g.layers) (hk : k < 2 ^ g.keyBits) :
    g.spanInside 0 (2 ^ g.keyBits - 1) i k = true := by
  have hdvd : 2 ^ g.shift i ∣ 2 ^ g.keyBits := pow_dvd_pow 2 (shift_le_keyBits hlegal hi.le)
  have hend := alignw_add_le_of_dvd hdvd hk
  simp only [Geom.spanInside, Bool.and_eq_true, decide_eq_true_eq]
  omega

end ClosedForm

/-- Settles O30: OVERLAPS_REF finds a key of the query, which is found where the bits from c(k) up are set. -/
theorem overlapsReferenceHasItsClosedForm : Obligations.OverlapsReferenceHasItsClosedForm := by
  intro g m lo hi hlegal hle hhi
  rw [overlapsRef_iff hlegal hle hhi]
  refine exists_congr fun k => and_assoc.trans (and_congr_right fun hlo => and_congr_right fun hk => ?_)
  exact keyFound_iff_coarsest hlegal hlo hk

/-- Settles O32: in the whole domain a key is found at the coarsest layer already. -/
theorem fullDomainProbesTheCoarsestLayer : Obligations.FullDomainProbesTheCoarsestLayer := by
  intro g m hlegal
  have hpos := Nat.two_pow_pos g.keyBits
  have hlayers := one_le_layers hlegal
  rw [overlapsRef_iff hlegal (Nat.zero_le _) (by omega)]
  refine exists_congr fun k => ?_
  constructor
  · rintro ⟨⟨-, hk⟩, hfound⟩
    obtain ⟨c, hc, -, hbits⟩ := keyFound_iff.mp hfound
    exact ⟨by omega, hbits _ (by omega) (by omega)⟩
  · rintro ⟨hk, hbit⟩
    refine ⟨⟨Nat.zero_le k, by omega⟩, ?_⟩
    rw [← Nat.sub_add_cancel hlayers]
    exact (keyFound_succ_of_inside (spanInside_domain hlegal (by omega) hk)).mpr hbit

end Sys2Proof.Machine
end

section
/-! Canonical memories are told apart by their bits, so that ADDs commute and are idempotent (42_point.md rule R304). -/

namespace Sys2Proof.Machine

/-! ### Canonical memories with the same cells are equal -/

theorem read_cons_self (a : Nat) (v : CellWord) (m : Memory) : Memory.read ((a, v) :: m) a = v := if_pos rfl

theorem read_cons_ne {a c : Nat} (h : a ≠ c) (v : CellWord) (m : Memory) :
    Memory.read ((a, v) :: m) c = Memory.read m c := if_neg h

/-- A listed cell below every listed cell of the other memory is not read alike there. -/
theorem read_cons_ne_of_lt {a : Nat} {v : CellWord} {m m' : Memory} (hv : v ≠ 0) (h : ∀ e ∈ m', a < e.1) :
    Memory.read ((a, v) :: m) a ≠ Memory.read m' a := by
  rw [read_cons_self, read_of_lt h]
  exact hv

theorem Memory.Rising.lt_of_mem {a b : Nat} {w : CellWord} {m : Memory} (h : Memory.Rising ((b, w) :: m)) (hab : a < b) :
    ∀ e ∈ (b, w) :: m, a < e.1 := by
  intro e he
  rcases List.mem_cons.mp he with rfl | he
  · exact hab
  · exact hab.trans ((List.pairwise_cons.mp h).1 e he)

theorem eq_of_read_eq {m m' : Memory} (hm : Memory.Rising m) (hm' : Memory.Rising m') (hne : ∀ e ∈ m, e.2 ≠ 0)
    (hne' : ∀ e ∈ m', e.2 ≠ 0) (h : ∀ c, Memory.read m c = Memory.read m' c) : m = m' := by
  induction m generalizing m' with
  | nil =>
    cases m' with
    | nil => rfl
    | cons e m' =>
      obtain ⟨b, w⟩ := e
      exact absurd (h b).symm (read_cons_ne_of_lt (hne' (b, w) (by simp)) nofun)
  | cons e m ih =>
    obtain ⟨a, v⟩ := e
    have hv : v ≠ 0 := hne (a, v) (by simp)
    cases m' with
    | nil => exact absurd (h a) (read_cons_ne_of_lt hv nofun)
    | cons e m' =>
      obtain ⟨b, w⟩ := e
      have hw : w ≠ 0 := hne' (b, w) (by simp)
      rcases lt_trichotomy a b with hab | rfl | hba
      · exact absurd (h a) (read_cons_ne_of_lt hv (hm'.lt_of_mem hab))
      · have hvw := h a
        rw [read_cons_self, read_cons_self] at hvw
        have htail : m = m' := by
          refine ih hm.tail hm'.tail (fun e he => hne e (by simp [he])) (fun e he => hne' e (by simp [he])) fun c => ?_
          by_cases hc : a = c
          · subst hc
            rw [read_of_lt (List.pairwise_cons.mp hm).1, read_of_lt (List.pairwise_cons.mp hm').1]
          · have hrest := h c
            rwa [read_cons_ne hc, read_cons_ne hc] at hrest
        rw [hvw, htail]
      · exact absurd (h b).symm (read_cons_ne_of_lt hw (hm.lt_of_mem hba))

theorem eq_of_bit_eq {p : Params} {m m' : Memory} (hm : Memory.wf p m = true) (hm' : Memory.wf p m' = true)
    (h : ∀ c j, Memory.bit m c j = true ↔ Memory.bit m' c j = true) : m = m' := by
  obtain ⟨hrising, hentries⟩ := (wf_iff p m).mp hm
  obtain ⟨hrising', hentries'⟩ := (wf_iff p m').mp hm'
  exact eq_of_read_eq hrising hrising' (fun e he => (hentries e he).2.1) (fun e he => (hentries' e he).2.1)
    fun c => BitVec.eq_of_getLsbD_eq fun j _ => Bool.eq_iff_iff.mpr (h c j)

/-! ### SETBIT and ADD keep the canonical form -/

/-- The value that SETBIT writes is B bits wide (20_memory.md rule R106). -/
theorem or_locate_lt {g : Geom} {v : CellWord} (hv : v.toNat < 2 ^ g.params.cellB.bits) (i k : Nat) :
    (v ||| (g.locate i k).2).toNat < 2 ^ g.params.cellB.bits := by
  rw [BitVec.toNat_or]
  refine Nat.or_lt_two_pow hv ?_
  calc (g.locate i k).2.toNat ≤ 1 <<< (g.bitIndex i k % g.cellBits) := by
        show (BitVec.ofNat 128 _).toNat ≤ _
        rw [BitVec.toNat_ofNat]
        exact Nat.mod_le _ _
    _ = 2 ^ (g.bitIndex i k % g.cellBits) := Nat.one_shiftLeft _
    _ < 2 ^ g.params.cellB.bits := Nat.pow_lt_pow_right (by decide) (Nat.mod_lt _ (cellBits_pos g))

section Canonical
variable {g : Geom} (ha : g.addressable = true)
include ha

theorem locate_cell_lt_nMax {i : Nat} (hi : i < g.layers) (k : Nat) : (g.locate i k).1 < g.params.nMax := by
  have hn : g.act.n ≤ g.params.nMax := of_decide_eq_true ((Bool.and_eq_true _ _).mp ha).1
  exact (wordBit_cell_lt ha hi k k).trans_le hn

theorem wf_setBit {m : Memory} (hm : Memory.wf g.params m = true) {i : Nat} (hi : i < g.layers) (k : Nat) :
    Memory.wf g.params (g.setBit m i k) = true :=
  wf_write hm (locate_cell_lt_nMax ha hi k) (or_locate_lt (read_lt hm _) i k)

theorem wf_foldl_setBit {layers : List Nat} (hl : ∀ i ∈ layers, i < g.layers) (k : Nat) {m : Memory}
    (hm : Memory.wf g.params m = true) : Memory.wf g.params (layers.foldl (fun m i => g.setBit m i k) m) = true := by
  induction layers generalizing m with
  | nil => exact hm
  | cons i layers ih => exact ih (fun j hj => hl j (by simp [hj])) (wf_setBit ha hm (hl i (by simp)) k)

theorem wf_addKey {m : Memory} (hm : Memory.wf g.params m = true) (k : Nat) :
    Memory.wf g.params (g.addKey m k) = true :=
  wf_foldl_setBit ha (fun _ hi => List.mem_range.mp hi) k hm

theorem wf_foldl_addKey (ks : List Nat) {m : Memory} (hm : Memory.wf g.params m = true) :
    Memory.wf g.params (ks.foldl g.addKey m) = true := by
  induction ks generalizing m with
  | nil => exact hm
  | cons k ks ih => exact ih (wf_addKey ha hm k)

end Canonical

/-- ADDs leave the bits that were set and those of the keys added. -/
theorem bit_foldl_addKey_iff {g : Geom} {c j : Nat} (ks : List Nat) (m : Memory) :
    Memory.bit (ks.foldl g.addKey m) c j = true ↔
      Memory.bit m c j = true ∨
        ∃ k ∈ ks, ∃ i, i < g.layers ∧ (g.locate i k).1 = c ∧ (g.locate i k).2.getLsbD j = true := by
  induction ks generalizing m with
  | nil => simp
  | cons k ks ih => rw [List.foldl_cons, ih, bit_addKey_iff, or_assoc, List.exists_mem_cons_iff]

/-- Settles O43: the bits depend on the set of keys alone, and canonical memories with the same bits are equal. -/
theorem addsDependOnlyOnTheSetOfKeys : Obligations.AddsDependOnlyOnTheSetOfKeys := by
  intro g m ks ks'
  refine ⟨fun c j => bit_foldl_addKey_iff ks m, fun ha hm hsame => ?_⟩
  refine eq_of_bit_eq (wf_foldl_addKey ha ks hm) (wf_foldl_addKey ha ks' hm) fun c j => ?_
  rw [bit_foldl_addKey_iff, bit_foldl_addKey_iff]
  exact or_congr Iff.rfl (exists_congr fun k => and_congr_left' (hsame k))

end Sys2Proof.Machine
end

section
/-! What the steps of each phase can do (42_point.md rule R303, 43_range.md rule R399), said once, and what follows for
errors (60_exceptions.md rule R456) and for the cells (10_state.md rule R74). -/

namespace Sys2Proof.Machine

/-! ### The steps of the phases, by what they answer -/

/-- A CFG_ZERO step clears a cell and goes on, or clears the last one, commits and completes. -/
theorem cfgZeroStep_cases {s : State} (hz : s.seq.zidx < latchedCells s) :
    (s.seq.zidx + 1 < latchedCells s ∧ cfgZeroStep s
        = (s.setCells (Memory.write s.cells s.seq.zidx 0)).setSeq { s.seq with zidx := s.seq.zidx + 1 })
      ∨ (s.seq.zidx + 1 = latchedCells s ∧ cfgZeroStep s
        = complete false (commit (s.setCells (Memory.write s.cells s.seq.zidx 0)))) := by
  unfold cfgZeroStep
  rw [if_pos hz]
  dsimp only
  split_ifs with hnext
  · exact .inl ⟨hnext, rfl⟩
  · exact .inr ⟨by omega, rfl⟩

theorem nextLayer_cases (g : Geom) (r : Bool) (s : State) :
    (s.seq.lidx.toNat + 1 = g.layers ∧ nextLayer g r s = complete r s)
      ∨ (s.seq.lidx.toNat + 1 ≠ g.layers ∧ nextLayer g r s = s.setSeq { s.seq with lidx := s.seq.lidx + 1 }) := by
  unfold nextLayer
  split_ifs with hlast
  · exact .inl ⟨hlast, rfl⟩
  · exact .inr ⟨hlast, rfl⟩

theorem containsLayer_cases (g : Geom) (s : State) :
    containsLayer g s = nextLayer g true s ∨ containsLayer g s = complete false s := by
  unfold containsLayer
  split_ifs
  · exact .inl rfl
  · exact .inr rfl

/-- A PT_LAYER step that answers writes the cells of ADD only, and then completes or goes to the next layer. -/
theorem ptLayerStep_next {h : HashFn} {s t : State} (ht : ptLayerStep h s = .next t) :
    (s.geom h).layerReady s.seq.lidx.toNat = true
      ∧ ((s.latch.curOp = encode .add ∧ t = addLayer (s.geom h) s)
        ∨ (s.latch.curOp ≠ encode .add ∧ t = containsLayer (s.geom h) s)) := by
  unfold ptLayerStep at ht
  split_ifs at ht with hready hadd
  · exact ⟨hready, .inl ⟨hadd, (Host.Outcome.next.inj ht).symm⟩⟩
  · exact ⟨hready, .inr ⟨hadd, (Host.Outcome.next.inj ht).symm⟩⟩

/-- The phases of a running OVERLAPS (10_state.md rule R76). -/
def Phase.isRange (p : Phase) : Prop := p = .rqItem ∨ p = .rqSeg ∨ p = .rqSwap

/-- The sequencer after a step of OVERLAPS that goes on, whatever the range registers: still in a phase of OVERLAPS, at
the same layer or a lower one. -/
structure StaysInRange (q q' : Sequencer) : Prop where
  phase : q'.phase.isRange
  fresh : q'.fresh = q.fresh
  layer : q'.layer.toNat ≤ q.layer.toNat

theorem appendSegment_eq {sg : Segment} {q q' : Sequencer} (h : appendSegment sg q = some q') :
    ∃ a b n, q' = { q with nseg0 := a, nseg1 := b, ncount := n } := by
  unfold appendSegment at h
  split_ifs at h
  · exact ⟨_, _, _, (Option.some.inj h).symm⟩
  · exact ⟨_, _, _, (Option.some.inj h).symm⟩

theorem coveringItem_next {g : Geom} {lo hi i x xe : Nat} {s t : State} (hphase : s.seq.phase = .rqItem)
    (ht : coveringItem g lo hi i x xe s = .next t) : ∃ q, t = s.setSeq q ∧ StaysInRange s.seq q := by
  unfold coveringItem at ht
  split_ifs at ht
  · split at ht
    · obtain ⟨a, b, n, rfl⟩ := appendSegment_eq ‹_›
      exact ⟨_, (Host.Outcome.next.inj ht).symm, .inl hphase, rfl, le_rfl⟩
    · cases ht
  · exact ⟨_, (Host.Outcome.next.inj ht).symm, .inl hphase, rfl, le_rfl⟩

theorem containedItem_cases {g : Geom} {i x e : Nat} {s : State} (hphase : s.seq.phase = .rqItem) :
    containedItem g i x e s = complete true s
      ∨ ∃ q, containedItem g i x e s = s.setSeq q ∧ StaysInRange s.seq q := by
  unfold containedItem
  split_ifs
  · exact .inl rfl
  · exact .inr ⟨_, rfl, .inl hphase, rfl, le_rfl⟩

theorem rqItemStep_next {g : Geom} {lo hi : Nat} {s t : State} (hphase : s.seq.phase = .rqItem)
    (ht : rqItemStep g lo hi s = .next t) :
    t = complete true s ∨ ∃ q, t = s.setSeq q ∧ StaysInRange s.seq q := by
  unfold rqItemStep at ht
  dsimp only at ht
  split_ifs at ht
  · exact .inr ⟨_, (Host.Outcome.next.inj ht).symm, .inr (.inl rfl), rfl, le_rfl⟩
  · exact .inr (coveringItem_next hphase ht)
  · exact Host.Outcome.next.inj ht ▸ containedItem_cases hphase

theorem rqSegStep_eq (s : State) : ∃ q, rqSegStep s = s.setSeq q ∧ StaysInRange s.seq q := by
  unfold rqSegStep
  split_ifs
  · exact ⟨_, rfl, .inr (.inr rfl), rfl, le_rfl⟩
  · exact ⟨_, rfl, .inl rfl, rfl, le_rfl⟩

theorem rqSwapStep_cases (s : State) :
    rqSwapStep s = complete false s ∨ ∃ q, rqSwapStep s = s.setSeq q ∧ StaysInRange s.seq q := by
  unfold rqSwapStep
  split_ifs with hend
  · exact .inl rfl
  · have hlayer : s.seq.layer ≠ 0 := fun h => hend (.inr h)
    exact .inr ⟨_, rfl, .inl rfl, rfl, by bv_omega⟩

/-- A step of OVERLAPS after its first completes, or writes sequencing registers only. -/
theorem phaseStep_range_next {h : HashFn} {s t : State} (hphase : s.seq.phase.isRange) (ht : phaseStep h s = .next t) :
    (∃ r, t = complete r s) ∨ ∃ q, t = s.setSeq q ∧ StaysInRange s.seq q := by
  unfold phaseStep at ht
  rcases hphase with hphase | hphase | hphase <;> rw [hphase] at ht <;> dsimp only at ht
  · exact (rqItemStep_next hphase ht).imp_left fun h => ⟨true, h⟩
  · exact .inr (Host.Outcome.next.inj ht ▸ rqSegStep_eq s)
  · exact (Host.Outcome.next.inj ht ▸ rqSwapStep_cases s).imp_left fun h => ⟨false, h⟩

/-! ### Only the first step raises an error -/

theorem nextLayer_err (g : Geom) (r : Bool) {s : State} (h : s.status.err = false) :
    (nextLayer g r s).status.err = false := by
  obtain ⟨-, hs⟩ | ⟨-, hs⟩ := nextLayer_cases g r s <;> rw [hs]
  · rfl
  · exact h

theorem cfgZeroStep_err {s : State} (h : s.status.err = false) : (cfgZeroStep s).status.err = false := by
  unfold cfgZeroStep
  dsimp only
  split_ifs
  · exact h
  · exact h
  · rfl
  · rfl

theorem phaseStep_err {h : HashFn} {s t : State} (ht : phaseStep h s = .next t) (herr : s.status.err = false) :
    t.status.err = false := by
  have hrange (hphase : s.seq.phase.isRange) : t.status.err = false := by
    obtain ⟨r, rfl⟩ | ⟨q, rfl, -⟩ := phaseStep_range_next hphase ht
    · rfl
    · exact herr
  cases hphase : s.seq.phase with
  | idle =>
    rw [phaseStep, hphase] at ht
    exact Host.Outcome.next.inj ht ▸ herr
  | cfgZero =>
    rw [phaseStep, hphase] at ht
    exact Host.Outcome.next.inj ht ▸ cfgZeroStep_err herr
  | ptLayer =>
    rw [phaseStep, hphase] at ht
    obtain ⟨-, ⟨-, rfl⟩ | ⟨-, rfl⟩⟩ := ptLayerStep_next ht
    · exact nextLayer_err _ _ herr
    · obtain hs | hs := containsLayer_cases (s.geom h) s <;> rw [hs]
      · exact nextLayer_err _ _ herr
      · rfl
  | rqSeg => exact hrange (.inr (.inl hphase))
  | rqItem => exact hrange (.inl hphase)
  | rqSwap => exact hrange (.inr (.inr hphase))

/-- The first step raises an error, or writes sequencing registers only. -/
theorem startStep_cases (h : HashFn) (s : State) :
    (∃ e det, startStep h s = raiseError e det s) ∨ ∃ q, startStep h s = s.setSeq q := by
  unfold startStep startConfig startPoint startRange
  repeat' split
  all_goals first | exact .inl ⟨_, _, rfl⟩ | exact .inr ⟨_, rfl⟩

/-- Settles O49: the steps of the phases keep ERR clear, and the first step touches no cell. -/
theorem errorsComeBeforeAnyCellAccess : Obligations.ErrorsComeBeforeAnyCellAccess := by
  intro h s t ht hs herr
  cases hf : s.seq.fresh with
  | false =>
    rw [engineStepWith_of_not_fresh hf] at ht
    exact absurd (herr.symm.trans (phaseStep_err ht hs)) (by decide)
  | true =>
    rw [engineStepWith_of_fresh hf] at ht
    obtain rfl := Host.Outcome.next.inj ht
    have hkept := filterKept_startStep h s
    refine ⟨rfl, ?_, hkept.cells, hkept.act, hkept.cfgValid⟩
    obtain ⟨e, det, hstart⟩ | ⟨q, hstart⟩ := startStep_cases h s <;> rw [hstart] at herr ⊢
    · rfl
    · exact absurd (herr.symm.trans hs) (by decide)

/-! ### Only ADD changes a cell -/

/-- While a command runs, the host does not reach its latch (70_reset_and_hazards.md rule R512). -/
theorem applyAccess_latch_of_busy {s : State} (hb : s.status.busy = true) (acc : Option Access) :
    (applyAccess s acc).latch = s.latch := by
  unfold applyAccess hostWrite
  split
  · rfl
  · rfl
  · split
    case h_1 r _ =>
      cases r
      case cmd => simp only [writeReg, writeCmd, if_pos hb]
      all_goals rfl
    case h_2 => rfl

/-- The engine is neither clearing cells nor adding a key. -/
structure KeepsCells (s : State) : Prop where
  notClearing : s.seq.fresh = false → s.seq.phase ≠ .cfgZero
  notAdding : s.seq.fresh = false → s.seq.phase = .ptLayer → s.latch.curOp ≠ encode .add

theorem filterKept_phaseStep {h : HashFn} {s t : State} (hz : s.seq.phase ≠ .cfgZero)
    (hadd : s.seq.phase = .ptLayer → s.latch.curOp ≠ encode .add) (ht : phaseStep h s = .next t) : FilterKept s t := by
  unfold phaseStep at ht
  split at ht
  case h_1 => exact Host.Outcome.next.inj ht ▸ .refl s
  case h_2 hphase => exact absurd hphase hz
  case h_3 hphase =>
    obtain ⟨-, ⟨hop, -⟩ | ⟨-, rfl⟩⟩ := ptLayerStep_next ht
    · exact absurd hop (hadd hphase)
    · exact filterKept_containsLayer _ s
  case h_4 => exact Host.Outcome.next.inj ht ▸ filterKept_rqSegStep s
  case h_5 => exact filterKept_rqItemStep ht
  case h_6 => exact Host.Outcome.next.inj ht ▸ filterKept_rqSwapStep s

theorem filterKept_engineStep {s t : State} (hkeeps : KeepsCells s) (ht : engineStep s = .next t) : FilterKept s t := by
  unfold engineStep at ht
  cases hf : s.seq.fresh with
  | true =>
    rw [engineStepWith_of_fresh hf] at ht
    exact Host.Outcome.next.inj ht ▸ filterKept_startStep _ s
  | false =>
    rw [engineStepWith_of_not_fresh hf] at ht
    exact filterKept_phaseStep (hkeeps.notClearing hf) (hkeeps.notAdding hf) ht

theorem filterKept_clockCycle {acc : Option Access} {s t : State} (hkeeps : KeepsCells s)
    (ht : clockCycle acc s = .next t) : FilterKept s t := by
  have haccess := filterKept_applyAccess s acc
  obtain ⟨-, rfl⟩ | ⟨-, -, rfl⟩ | ⟨hb, -, u, hu, rfl⟩ := clockCycle_next ht
  · exact haccess
  · exact haccess.trans ⟨rfl, rfl, rfl, rfl⟩
  · have hseq := applyAccess_seq_of_busy hb acc
    have hlatch := applyAccess_latch_of_busy hb acc
    have hkeeps' : KeepsCells (applyAccess s acc) :=
      ⟨by rw [hseq]; exact hkeeps.notClearing, by rw [hseq, hlatch]; exact hkeeps.notAdding⟩
    exact (haccess.trans (filterKept_engineStep hkeeps' hu)).trans (filterKept_drawLatency u)

theorem filterKept_exec {i : Instr} {s t : State}
    (hconfig : i = .config → validate s.params s.cfgSize s.cfgL s.cfgDelta ≠ 0) (hadd : i ≠ .add)
    (ht : exec i s = .next t) : FilterKept s t := by
  cases i with
  | config =>
    rw [exec_config_of_invalid (hconfig rfl)] at ht
    obtain rfl := Host.Outcome.next.inj ht
    exact (filterKept_launch _ s).trans (filterKept_raiseError _ _ _)
  | add => exact absurd rfl hadd
  | contains => exact (filterKept_launch _ s).trans (filterKept_runContains ht)
  | overlaps => exact (filterKept_launch _ s).trans (filterKept_runOverlaps ht)

theorem filterKept_step {s t : State} (hclear : clearsFilter s = false)
    (hadd : s.seq.fresh = false → s.seq.phase = .ptLayer → s.latch.curOp ≠ encode .add)
    (hissue : ∀ v rest, s.inputs = .issue v :: rest → s.status.busy = false → decode v ≠ .command .add)
    (ht : step s = .next t) : FilterKept s t := by
  obtain ⟨hrst, hz, hconfig⟩ := clearsFilter_eq_false hclear
  have hinputs (l : List HostOp) : FilterKept s (s.setInputs l) := filterKept_setInputs s l
  have hcycle (l : List HostOp) (acc : Option Access) (ht : clockCycle acc (s.setInputs l) = .next t) :
      FilterKept s t := (hinputs l).trans (filterKept_clockCycle (s := s.setInputs l) ⟨hz, hadd⟩ ht)
  obtain ⟨-, ht⟩ | ⟨acc, rest, -, ht⟩ | ⟨acc, rest, hin, -⟩ | ⟨rest, -, -, ht⟩ | ⟨rest, -, -, ht⟩ |
    ⟨v, rest, -, -, ht⟩ | ⟨v, rest, i, u, hin, hb, hv, hu, rfl⟩ | ⟨v, rest, why, -, -, -, rfl⟩ := step_next ht
  · exact filterKept_clockCycle ⟨hz, hadd⟩ ht
  · exact hcycle _ _ ht
  · simp [rstNow, hin] at hrst
  · exact filterKept_clockCycle ⟨hz, hadd⟩ ht
  · exact hcycle _ _ ht
  · exact hcycle _ _ ht
  · have hexec : FilterKept (s.setInputs rest) u := filterKept_exec (by rintro rfl; exact hconfig v rest hin hb hv)
      (by rintro rfl; exact hissue v rest hin hb hv) hu
    exact ((hinputs _).trans hexec).trans (filterKept_pollStatus u)
  · exact (hinputs _).trans ((filterKept_runIllegal _ _).trans (filterKept_pollStatus _))

/-- Settles O42: along a run the filter grows, and a step without an ADD keeps it whole. -/
theorem onlyAddSetsBits : Obligations.OnlyAddSetsBits := by
  refine ⟨fun s t hlater => ?_, fun s t ht hclear hadd hissue => (filterKept_step hclear hadd hissue ht).cells⟩
  have hgrows := hlater.filterGrows
  exact ⟨hgrows.act, hgrows.cfgValid, hgrows.params, hgrows.cells⟩

end Sys2Proof.Machine
end

section
/-! The invariant of the machine (10_state.md rules R48 to R51, R63, R72, R76): launch, completion, error completion, COMMIT
and reset establish it, and every phase step, host access and command keeps it. -/

namespace Sys2Proof.Machine

/-! ### The invariant without PHASE and STATUS -/

/-- The clauses of the invariant that no completion can break: parameters, sizes, cells, active configuration. -/
structure FilterSound (s : State) : Prop where
  params : s.params.wf = true
  shape : shapeOk s = true
  cells : Memory.wf s.params s.cells = true
  legal : s.status.cfgValid = true → legalConfig s.params s.act = true

theorem inv_iff_filterSound (s : State) :
    s.inv = true ↔ FilterSound s ∧ (s.status.busy = true ↔ s.seq.phase ≠ .idle) ∧ statusOk s = true
      ∧ phaseOk s = true := by
  rw [inv_iff]
  exact ⟨fun ⟨h₁, h₂, h₃, h₄, h₅, h₆, h₇⟩ => ⟨⟨h₁, h₂, h₄, h₅⟩, h₃, h₆, h₇⟩,
    fun ⟨⟨h₁, h₂, h₄, h₅⟩, h₃, h₆, h₇⟩ => ⟨h₁, h₂, h₃, h₄, h₅, h₆, h₇⟩⟩

theorem FilterSound.of_inv {s : State} (h : s.inv = true) : FilterSound s := ((inv_iff_filterSound s).mp h).1

theorem busy_iff_of_inv {s : State} (h : s.inv = true) : s.status.busy = true ↔ s.seq.phase ≠ .idle :=
  ((inv_iff_filterSound s).mp h).2.1

theorem FilterSound.setCells {s : State} (h : FilterSound s) {m : Memory} (hm : Memory.wf s.params m = true) :
    FilterSound (s.setCells m) := ⟨h.params, h.shape, hm, h.legal⟩

/-- The latched parameters are valid where VALIDATE finds nothing (40_config.md rule R202). -/
theorem FilterSound.validParams {s : State} (h : FilterSound s) (hv : validateLatch s = 0) :
    ValidParams s.params s.latch.size s.latch.l s.latch.delta := by
  obtain ⟨-, hlen, -⟩ := (shapeOk_iff s).mp h.shape
  exact validParams_of_validate hlen hv

theorem FilterSound.commit {s : State} (h : FilterSound s) (hv : validateLatch s = 0) : FilterSound (commit s) := by
  obtain ⟨hcfg, hlatch, -, -⟩ := (shapeOk_iff s).mp h.shape
  refine ⟨h.params, (shapeOk_iff _).mpr ⟨hcfg, hlatch, ?_, ?_⟩, h.cells,
    fun _ => legalConfig_commitActive h.params (h.validParams hv)⟩
  · simp [commitActive]
  · simp [commitActive]

/-! ### Completion, error completion, launch -/

/-- COMPLETE leaves a sound idle state (60_exceptions.md rule R454). -/
theorem inv_complete {s : State} (h : FilterSound s) (hdetail : s.errDetail = 0) (r : Bool) :
    (complete r s).inv = true := by
  refine (inv_iff_filterSound _).mpr ⟨⟨h.params, h.shape, h.cells, h.legal⟩, by simp, ?_, rfl⟩
  simp [statusOk, hdetail]

/-- RAISE leaves a sound idle state, where it reports a detail of VALIDATE or none (60_exceptions.md rule R455). -/
theorem inv_raiseError {s : State} (h : FilterSound s) {e : ErrorCode} {det : Word}
    (hdet : det = 0 ∨ (e = .invalidParams ∧ det.toNat < 128)) : (raiseError e det s).inv = true := by
  refine (inv_iff_filterSound _).mpr ⟨⟨h.params, h.shape, h.cells, h.legal⟩, by simp, ?_, rfl⟩
  rcases hdet with rfl | ⟨rfl, hlt⟩
  · cases e <;> rfl
  · simp [statusOk, hlt, errorNumber]

theorem freshPhaseOk_launch (v : Word) (s : State) : freshPhaseOk (launch v s) = true := by
  unfold freshPhaseOk
  rw [launch_latch]
  dsimp only
  split
  · exact decide_eq_true (launchPhase_of_command ‹_› s)
  · exact decide_eq_true (launchPhase_ne_idle v s)

theorem inv_launch {s : State} (h : s.inv = true) (v : Word) : (launch v s).inv = true := by
  have hf := FilterSound.of_inv h
  obtain ⟨hcfg, -, hdelta, hshift⟩ := (shapeOk_iff s).mp hf.shape
  refine (inv_iff_filterSound _).mpr ⟨⟨hf.params, (shapeOk_iff _).mpr ⟨hcfg, hcfg, hdelta, hshift⟩, hf.cells, hf.legal⟩,
    iff_of_true rfl (launchPhase_ne_idle v s), ?_, freshPhaseOk_launch v s⟩
  simp [statusOk]

/-- ERRDETAIL is 0 while a command runs (10_state.md rule R63). -/
theorem errDetail_of_busy {s : State} (h : s.inv = true) (hb : s.status.busy = true) : s.errDetail = 0 := by
  obtain ⟨-, -, hstatus, -⟩ := (inv_iff_filterSound s).mp h
  simp only [statusOk, hb, Bool.not_true, Bool.false_or, Bool.and_eq_true, decide_eq_true_eq] at hstatus
  obtain ⟨⟨⟨⟨⟨⟨-, hdetail⟩, -⟩, -⟩, -⟩, -⟩, -⟩ := hstatus
  exact hdetail

/-- Other sequencing registers of a running command that agree with its latch. -/
theorem inv_setSeq {s : State} (h : s.inv = true) (hb : s.status.busy = true) {q : Sequencer} (hq : q.phase ≠ .idle)
    (hfresh : q.fresh = false) (hphase : runningPhaseOk (s.setSeq q) = true) : (s.setSeq q).inv = true := by
  obtain ⟨hf, -, hstatus, -⟩ := (inv_iff_filterSound s).mp h
  refine (inv_iff_filterSound _).mpr ⟨⟨hf.params, hf.shape, hf.cells, hf.legal⟩, iff_of_true hb hq, hstatus, ?_⟩
  rw [phaseOk, setSeq_seq, hfresh]
  exact hphase

theorem inv_setCells {s : State} (h : s.inv = true) {m : Memory} (hm : Memory.wf s.params m = true) :
    (s.setCells m).inv = true := by
  obtain ⟨hf, hbusy, hstatus, hphase⟩ := (inv_iff_filterSound s).mp h
  exact (inv_iff_filterSound _).mpr ⟨hf.setCells hm, hbusy, hstatus, hphase⟩

/-! ### What PHASE says -/

theorem phaseOk_of_not_fresh {s : State} (hf : s.seq.fresh = false) : phaseOk s = runningPhaseOk s := by
  simp [phaseOk, hf]

theorem runningPhaseOk_of_inv {s : State} (h : s.inv = true) (hf : s.seq.fresh = false) : runningPhaseOk s = true := by
  obtain ⟨-, -, -, hphase⟩ := (inv_iff_filterSound s).mp h
  rwa [phaseOk_of_not_fresh hf] at hphase

theorem runningPhaseOk_cfgZero {s : State} (hphase : s.seq.phase = .cfgZero) :
    runningPhaseOk s = true ↔ decode s.latch.curOp = .command .config ∧ validateLatch s = 0
      ∧ s.seq.zidx < latchedCells s := by
  simp only [runningPhaseOk, hphase, Bool.and_eq_true, decide_eq_true_eq, and_assoc]

theorem runningPhaseOk_ptLayer {s : State} (hphase : s.seq.phase = .ptLayer) (h : HashFn) :
    runningPhaseOk s = true ↔ (decode s.latch.curOp = .command .add ∨ decode s.latch.curOp = .command .contains)
      ∧ pointError s = none ∧ s.seq.lidx.toNat < (s.geom h).layers := by
  simp only [runningPhaseOk, hphase, Bool.and_eq_true, Bool.or_eq_true, decide_eq_true_eq, and_assoc]
  rfl

theorem runningPhaseOk_range {s : State} (hphase : s.seq.phase.isRange) (h : HashFn) :
    runningPhaseOk s = true ↔ decode s.latch.curOp = .command .overlaps ∧ rangeError s = none
      ∧ s.seq.layer.toNat < (s.geom h).layers := by
  rcases hphase with hphase | hphase | hphase <;>
    simp only [runningPhaseOk, hphase, Bool.and_eq_true, decide_eq_true_eq, and_assoc] <;> rfl

theorem phase_ne_idle_of_fresh {s : State} (h : s.inv = true) (hf : s.seq.fresh = true) : s.seq.phase ≠ .idle := by
  obtain ⟨-, -, -, hphase⟩ := (inv_iff_filterSound s).mp h
  rw [phaseOk, if_pos hf] at hphase
  unfold freshPhaseOk at hphase
  split at hphase
  · exact of_decide_eq_true hphase ▸ firstPhase_ne_idle _
  · exact of_decide_eq_true hphase

/-- A machine at BUSY = 0 is idle and has no first step to make (10_state.md rule R76). -/
theorem idle_of_not_busy {s : State} (h : s.inv = true) (hb : s.status.busy = false) :
    s.seq.phase = .idle ∧ s.seq.fresh = false := by
  have hidle : s.seq.phase = .idle := by
    by_contra hne
    exact absurd ((busy_iff_of_inv h).mpr hne) (by simp [hb])
  refine ⟨hidle, ?_⟩
  by_contra hf
  exact phase_ne_idle_of_fresh h (Bool.not_eq_false _ ▸ hf) hidle

theorem legalConfig_of_pointError {s : State} (h : FilterSound s) (hpre : pointError s = none) :
    legalConfig s.params s.act = true := h.legal ((pointError_none_iff s).mp hpre).1

theorem legalConfig_of_rangeError {s : State} (h : FilterSound s) (hpre : rangeError s = none) :
    legalConfig s.params s.act = true := h.legal ((rangeError_none_iff s).mp hpre).1

/-! ### The first step -/

/-- VALIDATE uses bits 0 to 6 of ERRDETAIL (40_config.md rule R202). -/
theorem validateLatch_lt (s : State) : (validateLatch s).toNat < 128 := by
  refine Nat.lt_pow_two_of_testBit (n := 7) _ fun k hk => ?_
  obtain ⟨j, rfl⟩ := Nat.exists_eq_add_of_le' hk
  have hbit : (validateLatch s).getLsbD (j + 7) = false := by
    unfold validateLatch
    rw [validate_getLsbD]
    simp
  exact hbit

section FirstStep
variable {s : State} (hinv : s.inv = true) (hb : s.status.busy = true)
include hinv hb

theorem inv_startConfig (hop : decode s.latch.curOp = .command .config) : (startConfig s).inv = true := by
  have hf := FilterSound.of_inv hinv
  unfold startConfig
  split_ifs with hv
  · exact inv_raiseError hf (.inr ⟨rfl, validateLatch_lt s⟩)
  · have hv : validateLatch s = 0 := not_not.mp hv
    refine inv_setSeq hinv hb nofun rfl ((runningPhaseOk_cfgZero rfl).mpr ?_)
    exact ⟨hop, hv, (hf.validParams hv).one_le_cells⟩

theorem inv_startPoint (hop : decode s.latch.curOp = .command .add ∨ decode s.latch.curOp = .command .contains) :
    (startPoint s).inv = true := by
  have hf := FilterSound.of_inv hinv
  unfold startPoint
  cases hpre : pointError s with
  | some e => exact inv_raiseError hf (.inl rfl)
  | none =>
    refine inv_setSeq hinv hb nofun rfl ((runningPhaseOk_ptLayer rfl Config.hash).mpr ?_)
    exact ⟨hop, hpre, one_le_layers (g := s.geom Config.hash) (legalConfig_of_pointError hf hpre)⟩

theorem inv_startRange (h : HashFn) (hop : decode s.latch.curOp = .command .overlaps) : (startRange h s).inv = true := by
  have hf := FilterSound.of_inv hinv
  unfold startRange
  cases hpre : rangeError s with
  | some e => exact inv_raiseError hf (.inl rfl)
  | none =>
    have hlayers := one_le_layers (g := s.geom h) (legalConfig_of_rangeError hf hpre)
    have hlayer := rqStart_layer (g := s.geom h) (lo := queryLo s) (hi := queryHi s) s.seq
    refine inv_setSeq hinv hb nofun rfl ((runningPhaseOk_range (.inl rfl) h).mpr ⟨hop, hpre, ?_⟩)
    rw [setSeq_seq, geom_setSeq]
    omega

theorem inv_startStep (h : HashFn) : (startStep h s).inv = true := by
  unfold startStep
  split
  case h_1 => exact inv_raiseError (FilterSound.of_inv hinv) (.inl rfl)
  case h_2 hop => exact inv_startConfig hinv hb hop
  case h_3 hop => exact inv_startPoint hinv hb (.inl hop)
  case h_4 hop => exact inv_startPoint hinv hb (.inr hop)
  case h_5 hop => exact inv_startRange hinv hb h hop

end FirstStep

/-! ### The steps of the phases -/

section Phases
variable {s : State} (hinv : s.inv = true) (hb : s.status.busy = true) (hfresh : s.seq.fresh = false)
include hinv hb hfresh

theorem inv_cfgZeroStep (hphase : s.seq.phase = .cfgZero) : (cfgZeroStep s).inv = true := by
  have hf := FilterSound.of_inv hinv
  obtain ⟨hop, hv, hz⟩ := (runningPhaseOk_cfgZero hphase).mp (runningPhaseOk_of_inv hinv hfresh)
  have hcells : latchedCells s ≤ s.params.nMax := (hf.validParams hv).cells_le
  have hwf : Memory.wf s.params (Memory.write s.cells s.seq.zidx 0) = true :=
    wf_write hf.cells (lt_of_lt_of_le hz hcells) (Nat.two_pow_pos _)
  obtain ⟨hnext, hstep⟩ | ⟨-, hstep⟩ := cfgZeroStep_cases hz <;> rw [hstep]
  · exact inv_setSeq (inv_setCells hinv hwf) hb (by simp [hphase]) hfresh
      ((runningPhaseOk_cfgZero (by exact hphase)).mpr ⟨hop, hv, hnext⟩)
  · have hdetail := errDetail_of_busy hinv hb
    exact inv_complete ((hf.setCells hwf).commit hv) hdetail false

theorem inv_nextLayer {h : HashFn} (hphase : s.seq.phase = .ptLayer) (r : Bool) :
    (nextLayer (s.geom h) r s).inv = true := by
  obtain ⟨hop, hpre, hlidx⟩ := (runningPhaseOk_ptLayer hphase h).mp (runningPhaseOk_of_inv hinv hfresh)
  obtain ⟨-, hstep⟩ | ⟨hnext, hstep⟩ := nextLayer_cases (s.geom h) r s <;> rw [hstep]
  · exact inv_complete (FilterSound.of_inv hinv) (errDetail_of_busy hinv hb) r
  · refine inv_setSeq hinv hb (by simp [hphase]) hfresh
      ((runningPhaseOk_ptLayer (by exact hphase) h).mpr ⟨hop, hpre, ?_⟩)
    have hbound : (s.geom h).layers < 128 := s.act.l.isLt
    show (s.seq.lidx + 1).toNat < (s.geom h).layers
    bv_omega

theorem inv_ptLayerStep {h : HashFn} {t : State} (hphase : s.seq.phase = .ptLayer) (ht : ptLayerStep h s = .next t) :
    t.inv = true := by
  have hf := FilterSound.of_inv hinv
  obtain ⟨hready, ⟨-, rfl⟩ | ⟨-, rfl⟩⟩ := ptLayerStep_next ht
  · obtain ⟨haddr, hlidx⟩ := (Bool.and_eq_true _ _).mp hready
    have hwf := wf_setBit haddr hf.cells (of_decide_eq_true hlidx) (pointKey s)
    exact inv_nextLayer (s := s.setCells _) (inv_setCells hinv hwf) hb hfresh hphase false
  · obtain hstep | hstep := containsLayer_cases (s.geom h) s <;> rw [hstep]
    · exact inv_nextLayer hinv hb hfresh hphase true
    · exact inv_complete hf (errDetail_of_busy hinv hb) false

theorem inv_rangeStep {h : HashFn} {t : State} (hphase : s.seq.phase.isRange) (ht : phaseStep h s = .next t) :
    t.inv = true := by
  obtain ⟨hop, hpre, hlayer⟩ := (runningPhaseOk_range hphase h).mp (runningPhaseOk_of_inv hinv hfresh)
  obtain ⟨r, rfl⟩ | ⟨q, rfl, hstays⟩ := phaseStep_range_next hphase ht
  · exact inv_complete (FilterSound.of_inv hinv) (errDetail_of_busy hinv hb) r
  · have hq : q.phase ≠ .idle := by
      rcases hstays.phase with h | h | h <;> simp [h]
    exact inv_setSeq hinv hb hq (hstays.fresh.trans hfresh)
      ((runningPhaseOk_range hstays.phase h).mpr ⟨hop, hpre, lt_of_le_of_lt hstays.layer hlayer⟩)

end Phases

/-- Every phase step keeps the invariant. -/
theorem inv_engineStepWith {h : HashFn} {s t : State} (hinv : s.inv = true) (ht : engineStepWith h s = .next t) :
    t.inv = true := by
  cases hfresh : s.seq.fresh with
  | true =>
    rw [engineStepWith_of_fresh hfresh] at ht
    have hb := (busy_iff_of_inv hinv).mpr (phase_ne_idle_of_fresh hinv hfresh)
    exact Host.Outcome.next.inj ht ▸ inv_startStep hinv hb h
  | false =>
    rw [engineStepWith_of_not_fresh hfresh] at ht
    have hb (p : Phase) (hphase : s.seq.phase = p) (hp : p ≠ .idle) : s.status.busy = true :=
      (busy_iff_of_inv hinv).mpr (hphase ▸ hp)
    cases hphase : s.seq.phase with
    | idle =>
      rw [phaseStep, hphase] at ht
      exact Host.Outcome.next.inj ht ▸ hinv
    | cfgZero =>
      rw [phaseStep, hphase] at ht
      exact Host.Outcome.next.inj ht ▸ inv_cfgZeroStep hinv (hb _ hphase nofun) hfresh hphase
    | ptLayer =>
      rw [phaseStep, hphase] at ht
      exact inv_ptLayerStep hinv (hb _ hphase nofun) hfresh hphase ht
    | rqSeg => exact inv_rangeStep hinv (hb _ hphase nofun) hfresh (.inr (.inl hphase)) ht
    | rqItem => exact inv_rangeStep hinv (hb _ hphase nofun) hfresh (.inl hphase) ht
    | rqSwap => exact inv_rangeStep hinv (hb _ hphase nofun) hfresh (.inr (.inr hphase)) ht

/-! ### The host -/

/-- Clearing DONE and OVR leaves STATUS consistent (10_state.md rule R55). -/
theorem inv_writeStatus {s : State} (hinv : s.inv = true) (v : Word) : (writeStatus v s).inv = true := by
  obtain ⟨hf, hbusy, hstatus, hphase⟩ := (inv_iff_filterSound s).mp hinv
  refine (inv_iff_filterSound _).mpr ⟨⟨hf.params, hf.shape, hf.cells, hf.legal⟩, hbusy, ?_, hphase⟩
  unfold statusOk writeStatus at *
  cases hd : s.status.done with
  | false => simpa [hd] using hstatus
  | true =>
    have hidle : s.status.busy = false := by
      by_contra hb
      simp [hd, Bool.not_eq_false _ ▸ hb] at hstatus
    simpa [hidle] using hstatus

theorem inv_writeReg {s : State} (hinv : s.inv = true) (v : Word) (r : Reg) : (writeReg v s r).inv = true := by
  cases r
  case cmd =>
    cases hb : s.status.busy with
    | true =>
      show (writeCmd v s).inv = true
      rw [writeCmd_of_busy hb]
      exact hinv
    | false =>
      show (writeCmd v s).inv = true
      rw [writeCmd_of_idle hb]
      exact inv_launch hinv v
  case status => exact inv_writeStatus hinv v
  case cfgDelta j =>
    obtain ⟨hf, hbusy, hstatus, hphase⟩ := (inv_iff_filterSound s).mp hinv
    obtain ⟨hcfg, hrest⟩ := (shapeOk_iff s).mp hf.shape
    exact (inv_iff_filterSound _).mpr ⟨⟨hf.params, (shapeOk_iff _).mpr ⟨by simpa [writeReg] using hcfg, hrest⟩, hf.cells,
      hf.legal⟩, hbusy, hstatus, hphase⟩
  all_goals exact hinv

theorem inv_applyAccess {s : State} (hinv : s.inv = true) (acc : Option Access) : (applyAccess s acc).inv = true := by
  unfold applyAccess hostWrite
  split
  · exact hinv
  · exact hinv
  · split
    · exact inv_writeReg hinv _ _
    · exact hinv

theorem inv_clockCycle {acc : Option Access} {s t : State} (hinv : s.inv = true) (ht : clockCycle acc s = .next t) :
    t.inv = true := by
  have haccess := inv_applyAccess hinv acc
  obtain ⟨-, rfl⟩ | ⟨-, -, rfl⟩ | ⟨-, -, u, hu, rfl⟩ := clockCycle_next ht
  · exact haccess
  · exact haccess
  · have hstep : u.inv = true := inv_engineStepWith haccess hu
    exact hstep

/-! ### Reset -/

/-- The reset state is sound (70_reset_and_hazards.md rule R503). -/
theorem inv_resetOf {p : Params} (hp : p.wf = true) : (State.resetOf p).inv = true := by
  refine (inv_iff_filterSound _).mpr ⟨⟨hp, ?_, wf_reset p, nofun⟩, iff_of_false nofun (fun h => h rfl), rfl, rfl⟩
  rw [shapeOk_iff]
  simp [State.resetOf, Latch.reset, Active.reset]

/-- Settles O17: the reset state is idle, and its registers have their sizes. -/
theorem resetStateIsSound : Obligations.ResetStateIsSound :=
  ⟨fun _ hp => ⟨inv_resetOf hp, rfl⟩, rfl, by decide⟩

theorem inv_resetState {s : State} (hp : s.params.wf = true) : (resetState s).inv = true := by
  obtain ⟨hf, hbusy, hstatus, hphase⟩ := (inv_iff_filterSound _).mp (inv_resetOf hp)
  exact (inv_iff_filterSound _).mpr ⟨⟨hp, hf.shape, wf_cellsAfterReset _ _, nofun⟩, hbusy, hstatus, hphase⟩

/-- The access of a cycle with rst = 1 reaches the read port at most (rule R500). -/
theorem resetCycle_eq (acc : Option Access) (s : State) :
    resetCycle acc s = (resetState s).setRdata (resetCycle acc s).rdata
      ∧ ∀ off, acc = some (.rd off) → (resetCycle acc s).rdata = 0 := by
  rcases acc with _ | ⟨off⟩ | ⟨off, v⟩
  · exact ⟨rfl, nofun⟩
  · exact ⟨rfl, fun _ _ => rfl⟩
  · exact ⟨rfl, nofun⟩

theorem step_reset {s : State} {acc : Option Access} {rest : List HostOp} (hin : s.inputs = .cycle true acc :: rest) :
    step s = .next (resetCycle acc (s.setInputs rest)) := by
  simp [step, hin]

/-- Settles O16: the registers of the reset state, read one by one. -/
theorem resetCycleLeavesTheResetState : Obligations.ResetCycleLeavesTheResetState := by
  intro s acc rest hin
  refine ⟨_, step_reset hin, ?_⟩
  obtain ⟨hreset, hread⟩ := resetCycle_eq acc (s.setInputs rest)
  generalize resetCycle acc (s.setInputs rest) = t at hreset hread
  generalize t.rdata = w at hreset
  subst hreset
  have hstatus : statusWord Status.reset = 0 := by decide
  refine ⟨hstatus, rfl, rfl, rfl, rfl, rfl, rfl, fun j => ?_, rfl, rfl, rfl, ?_, rfl, rfl, rfl, rfl, hread⟩
  · show (List.replicate s.params.lMax (0 : Word)).getD j 0 = 0
    exact List.getElem?_getD_replicate_default_eq ..
  · show (_ && false && _) = false
    simp

/-! ### The commands, run whole -/

theorem inv_exec {i : Instr} {s t : State} (hinv : s.inv = true) (ht : exec i s = .next t) : t.inv = true := by
  have hl := inv_launch hinv (encode i)
  have hf := FilterSound.of_inv hl
  cases i with
  | config =>
    obtain rfl := Host.Outcome.next.inj ht
    obtain ⟨-, hrun⟩ | ⟨hv, hrun⟩ := runConfig_cases (launch (encode .config) s) <;> rw [hrun]
    · exact inv_raiseError hf (.inr ⟨rfl, validateLatch_lt _⟩)
    · have hwf := wf_clearCells hf.cells (hf.validParams hv).cells_le
      exact inv_complete ((hf.setCells hwf).commit hv) rfl false
  | add =>
    obtain ⟨e, -, rfl⟩ | ⟨-, ha, rfl⟩ := runAdd_next (s := launch (encode .add) s) ht
    · exact inv_raiseError hf (.inl rfl)
    · exact inv_complete (hf.setCells (wf_addKey ha hf.cells _)) rfl false
  | contains =>
    obtain ⟨e, -, rfl⟩ | ⟨-, -, rfl⟩ := runContains_next (s := launch (encode .contains) s) ht
    · exact inv_raiseError hf (.inl rfl)
    · exact inv_complete hf rfl _
  | overlaps =>
    obtain ⟨e, -, rfl⟩ | ⟨-, -, rfl⟩ := runOverlaps_next (s := launch (encode .overlaps) s) ht
    · exact inv_raiseError hf (.inl rfl)
    · exact inv_complete hf rfl _

/-- Settles O18: the operations of every kind of step keep the invariant. -/
theorem stepKeepsTheInvariant : Obligations.StepKeepsTheInvariant := by
  intro s t hinv ht
  have hinputs (l : List HostOp) : (s.setInputs l).inv = true := hinv
  obtain ⟨-, ht⟩ | ⟨acc, rest, -, ht⟩ | ⟨acc, rest, -, rfl⟩ | ⟨rest, -, -, ht⟩ | ⟨rest, -, -, ht⟩ |
    ⟨v, rest, -, -, ht⟩ | ⟨v, rest, i, u, -, -, -, hu, rfl⟩ | ⟨v, rest, why, -, -, -, rfl⟩ := step_next ht
  · exact inv_clockCycle hinv ht
  · exact inv_clockCycle (hinputs _) ht
  · rw [(resetCycle_eq acc (s.setInputs rest)).1]
    exact inv_resetState (s := s.setInputs rest) (FilterSound.of_inv hinv).params
  · exact inv_clockCycle hinv ht
  · exact inv_clockCycle (hinputs _) ht
  · exact inv_clockCycle (hinputs _) ht
  · have hexec : u.inv = true := inv_exec (hinputs _) hu
    exact hexec
  · exact inv_raiseError (FilterSound.of_inv (inv_launch (hinputs rest) v)) (.inl rfl)

end Sys2Proof.Machine
end

section
/-! The range registers and the faults (43_range.md rules R391 to R401, 60_exceptions.md rule R456): every step keeps the
frontier sound, and no step of a sound state stops. -/

namespace Sys2Proof.Machine

/-! ### Where the frontier condition says nothing -/

theorem frontierOk_of_fresh {s : State} (h : s.seq.fresh = true) : frontierOk s = true := by simp [frontierOk, h]

theorem frontierOk_of_not_range {s : State} (h : ¬ s.seq.phase.isRange) : frontierOk s = true := by
  unfold frontierOk rangeRegsOk
  unfold Phase.isRange at h
  cases hphase : s.seq.phase <;> simp_all

theorem not_isRange_of_idle {p : Phase} (h : p = .idle) : ¬ p.isRange := by
  subst h
  simp [Phase.isRange]

theorem frontierOk_complete (r : Bool) (s : State) : frontierOk (complete r s) = true :=
  frontierOk_of_not_range (not_isRange_of_idle rfl)

theorem frontierOk_raiseError (e : ErrorCode) (det : Word) (s : State) : frontierOk (raiseError e det s) = true :=
  frontierOk_of_not_range (not_isRange_of_idle rfl)

/-- The condition reads the configuration, the latch and the sequencing registers only. -/
theorem frontierOk_congr {s t : State} (hf : FilterKept s t) (hl : t.latch = s.latch) (hq : t.seq = s.seq) :
    frontierOk t = frontierOk s := by
  simp only [frontierOk, rangeRegsOk, queryLo, queryHi, hf.params, hf.act, hl, hq]

/-! ### The engine -/

theorem frontierOk_startStep {h : HashFn} {s : State} (hinv : s.inv = true) : frontierOk (startStep h s) = true := by
  unfold startStep
  split
  case h_1 => exact frontierOk_raiseError _ _ _
  case h_2 =>
    unfold startConfig
    split
    · exact frontierOk_raiseError _ _ _
    · exact frontierOk_of_not_range (by simp [Phase.isRange])
  case h_5 =>
    unfold startRange
    cases hpre : rangeError s with
    | some e => exact frontierOk_raiseError _ _ _
    | none =>
      obtain ⟨-, -, -, hle⟩ := (rangeError_none_iff s).mp hpre
      have hrun := rqStart_running (g := s.geom h) (legalConfig_of_rangeError (.of_inv hinv) hpre) s.seq hle
        (keyOf_lt _ _)
      have hregs := ((rangeRegs_iff h (s.setSeq (rqStart (s.geom h) (queryLo s) (queryHi s) s.seq))).mp hrun.regs).2
      simp [frontierOk, hregs]
  all_goals
    unfold startPoint
    split
    · exact frontierOk_raiseError _ _ _
    · exact frontierOk_of_not_range (by simp [Phase.isRange])

theorem nextLayer_phase {g : Geom} {r : Bool} {s : State} (h : ¬ s.seq.phase.isRange) :
    ¬ (nextLayer g r s).seq.phase.isRange := by
  obtain ⟨-, hstep⟩ | ⟨-, hstep⟩ := nextLayer_cases g r s <;> rw [hstep]
  · exact not_isRange_of_idle rfl
  · exact h

/-- A command that is no OVERLAPS does not come to a phase of OVERLAPS. -/
theorem phaseStep_not_range {h : HashFn} {s t : State} (hphase : ¬ s.seq.phase.isRange) (ht : phaseStep h s = .next t) :
    ¬ t.seq.phase.isRange := by
  unfold phaseStep at ht
  split at ht
  case h_1 => exact Host.Outcome.next.inj ht ▸ hphase
  case h_2 =>
    obtain rfl := Host.Outcome.next.inj ht
    unfold cfgZeroStep
    dsimp only
    split
    · exact hphase
    · exact not_isRange_of_idle rfl
  case h_3 =>
    obtain ⟨-, ⟨-, rfl⟩ | ⟨-, rfl⟩⟩ := ptLayerStep_next ht
    · exact nextLayer_phase (s := s.setCells _) hphase
    · obtain hstep | hstep := containsLayer_cases (s.geom h) s <;> rw [hstep]
      · exact nextLayer_phase hphase
      · exact not_isRange_of_idle rfl
  case h_4 heq => exact absurd (.inr (.inl heq)) hphase
  case h_5 heq => exact absurd (.inl heq) hphase
  case h_6 heq => exact absurd (.inr (.inr heq)) hphase

section Range
variable {h : HashFn} {s : State} (hinv : s.inv = true) (hfront : frontierOk s = true) (hfresh : s.seq.fresh = false)
  (hphase : s.seq.phase.isRange)
include hinv hfront hfresh hphase

/-- The invariants say what the sequencer needs of a running OVERLAPS (43_range.md rules R391 to R401). -/
theorem rangeRunning_of_inv : legalConfig s.params s.act = true ∧ queryLo s ≤ queryHi s
    ∧ RangeRunning (s.geom h) (queryLo s) (queryHi s) s.seq := by
  obtain ⟨-, hpre, hlayer⟩ := (runningPhaseOk_range hphase h).mp (runningPhaseOk_of_inv hinv hfresh)
  obtain ⟨-, -, -, hle⟩ := (rangeError_none_iff s).mp hpre
  have hregs : rangeRegsOk s = true := by simpa [frontierOk, hfresh] using hfront
  exact ⟨legalConfig_of_rangeError (.of_inv hinv) hpre, hle, hfresh, hlayer, (rangeRegs_iff h s).mpr ⟨hphase, hregs⟩⟩

theorem rangeStep_of_inv : RangeStep (s.geom h) (queryLo s) (queryHi s) s (phaseStep h s) := by
  obtain ⟨hlegal, hle, hrun⟩ := rangeRunning_of_inv (h := h) hinv hfront hfresh hphase
  exact phaseStep_rangeStep hlegal hle hrun

end Range

/-- Every phase step keeps the frontier sound. -/
theorem frontierOk_engineStepWith {h : HashFn} {s t : State} (hinv : s.inv = true) (hfront : frontierOk s = true)
    (ht : engineStepWith h s = .next t) : frontierOk t = true := by
  cases hfresh : s.seq.fresh with
  | true =>
    rw [engineStepWith_of_fresh hfresh] at ht
    exact Host.Outcome.next.inj ht ▸ frontierOk_startStep hinv
  | false =>
    rw [engineStepWith_of_not_fresh hfresh] at ht
    by_cases hphase : s.seq.phase.isRange
    · have hstep := rangeStep_of_inv (h := h) hinv hfront hfresh hphase
      rw [ht] at hstep
      generalize hout : (Host.Outcome.next t : Host.Outcome State Fault Refusal) = out at hstep
      cases hstep with
      | completes r _ => exact Host.Outcome.next.inj hout ▸ frontierOk_complete r s
      | goesOn q hq =>
        obtain rfl := Host.Outcome.next.inj hout
        have hregs := ((rangeRegs_iff h (s.setSeq q)).mp hq.running.regs).2
        simp [frontierOk, hregs]
    · exact frontierOk_of_not_range (phaseStep_not_range hphase ht)

/-! ### The host -/

/-- The host reaches the sequencing registers by a launch only (60_exceptions.md rules R452, R453). -/
theorem writeReg_seq (v : Word) (s : State) (r : Reg) :
    (writeReg v s r).seq = s.seq ∨ (writeReg v s r).seq.fresh = true := by
  cases r
  case cmd =>
    cases hb : s.status.busy with
    | true => exact .inl (congrArg (·.seq) (writeCmd_of_busy hb v) :)
    | false => exact .inr (congrArg (·.seq.fresh) (writeCmd_of_idle hb v))
  all_goals exact .inl rfl

theorem applyAccess_seq (s : State) (acc : Option Access) :
    (applyAccess s acc).seq = s.seq ∨ (applyAccess s acc).seq.fresh = true := by
  unfold applyAccess hostWrite
  split
  · exact .inl rfl
  · exact .inl rfl
  · split
    · exact writeReg_seq _ _ _
    · exact .inl rfl

theorem frontierOk_applyAccess {s : State} (hinv : s.inv = true) (hfront : frontierOk s = true) (acc : Option Access) :
    frontierOk (applyAccess s acc) = true := by
  cases hb : s.status.busy with
  | true =>
    rw [frontierOk_congr (filterKept_applyAccess s acc) (applyAccess_latch_of_busy hb acc)
      (applyAccess_seq_of_busy hb acc)]
    exact hfront
  | false =>
    obtain hseq | hfresh := applyAccess_seq s acc
    · refine frontierOk_of_not_range ?_
      rw [hseq]
      exact not_isRange_of_idle (idle_of_not_busy hinv hb).1
    · exact frontierOk_of_fresh hfresh

theorem frontierOk_clockCycle {acc : Option Access} {s t : State} (hinv : s.inv = true) (hfront : frontierOk s = true)
    (ht : clockCycle acc s = .next t) : frontierOk t = true := by
  have haccess := frontierOk_applyAccess hinv hfront acc
  obtain ⟨-, rfl⟩ | ⟨-, -, rfl⟩ | ⟨-, -, u, hu, rfl⟩ := clockCycle_next ht
  · exact haccess
  · exact haccess
  · have hstep : frontierOk u = true := frontierOk_engineStepWith (inv_applyAccess hinv acc) haccess hu
    exact hstep

/-- Settles O19: a step that leaves OVERLAPS running is a step of its sequencer. -/
theorem stepKeepsTheFrontier : Obligations.StepKeepsTheFrontier := by
  intro s t hinv hfront ht
  have hinputs (l : List HostOp) : (s.setInputs l).inv = true ∧ frontierOk (s.setInputs l) = true := ⟨hinv, hfront⟩
  have hcycle (l : List HostOp) (acc : Option Access) (ht : clockCycle acc (s.setInputs l) = .next t) :
      frontierOk t = true := frontierOk_clockCycle (hinputs l).1 (hinputs l).2 ht
  obtain ⟨-, ht⟩ | ⟨acc, rest, -, ht⟩ | ⟨acc, rest, -, rfl⟩ | ⟨rest, -, -, ht⟩ | ⟨rest, -, -, ht⟩ |
    ⟨v, rest, -, -, ht⟩ | ⟨v, rest, i, u, -, -, -, hu, rfl⟩ | ⟨v, rest, why, -, -, -, rfl⟩ := step_next ht
  · exact frontierOk_clockCycle hinv hfront ht
  · exact hcycle _ _ ht
  · rw [(resetCycle_eq acc (s.setInputs rest)).1]
    exact frontierOk_of_not_range (not_isRange_of_idle rfl)
  · exact frontierOk_clockCycle hinv hfront ht
  · exact hcycle _ _ ht
  · exact hcycle _ _ ht
  · obtain ⟨-, -, hidle, -⟩ := everyCommandEndsDone i _ u hu
    exact frontierOk_of_not_range (not_isRange_of_idle hidle)
  · exact frontierOk_raiseError .illegalCmd 0 (launch v (s.setInputs rest))

/-! ### Nothing stops the machine -/

theorem Answers.mapNext {o : Host.Outcome State Fault Refusal} (h : Answers o) (f : State → State) :
    Answers (mapNext f o) := by
  obtain ⟨t, rfl⟩ := h
  exact ⟨f t, rfl⟩

theorem phaseStep_answers {h : HashFn} {s : State} (hinv : s.inv = true) (hfront : frontierOk s = true)
    (hfresh : s.seq.fresh = false) : Answers (phaseStep h s) := by
  have hrange (hphase : s.seq.phase.isRange) : Answers (phaseStep h s) := by
    have hstep := rangeStep_of_inv (h := h) hinv hfront hfresh hphase
    generalize phaseStep h s = out at hstep
    cases hstep with
    | completes r _ => exact ⟨_, rfl⟩
    | goesOn q _ => exact ⟨_, rfl⟩
  cases hphase : s.seq.phase with
  | idle => exact ⟨s, by rw [phaseStep, hphase]⟩
  | cfgZero => exact ⟨cfgZeroStep s, by rw [phaseStep, hphase]⟩
  | ptLayer =>
    obtain ⟨-, hpre, hlidx⟩ := (runningPhaseOk_ptLayer hphase h).mp (runningPhaseOk_of_inv hinv hfresh)
    have haddr : (s.geom h).addressable = true :=
      addressable_of_legalConfig (legalConfig_of_pointError (.of_inv hinv) hpre)
    have hready : (s.geom h).layerReady s.seq.lidx.toNat = true := by simp [Geom.layerReady, haddr, hlidx]
    rw [phaseStep, hphase]
    dsimp only
    rw [ptLayerStep, if_pos hready]
    split_ifs <;> exact ⟨_, rfl⟩
  | rqSeg => exact hrange (.inr (.inl hphase))
  | rqItem => exact hrange (.inl hphase)
  | rqSwap => exact hrange (.inr (.inr hphase))

theorem engineStepWith_answers {h : HashFn} {s : State} (hinv : s.inv = true) (hfront : frontierOk s = true) :
    Answers (engineStepWith h s) := by
  cases hfresh : s.seq.fresh with
  | true => exact ⟨_, engineStepWith_of_fresh hfresh h⟩
  | false =>
    rw [engineStepWith_of_not_fresh hfresh]
    exact phaseStep_answers hinv hfront hfresh

theorem clockCycle_answers {s : State} (hinv : s.inv = true) (hfront : frontierOk s = true) (acc : Option Access) :
    Answers (clockCycle acc s) := by
  unfold clockCycle engineCycle
  split_ifs
  · exact (engineStepWith_answers (inv_applyAccess hinv acc) (frontierOk_applyAccess hinv hfront acc)).mapNext _
  · exact ⟨_, rfl⟩
  · exact ⟨_, rfl⟩

/-- A command without an error has a configuration, which names existing cells only (20_memory.md rule R104). -/
theorem exec_answers {s : State} (hinv : s.inv = true) (i : Instr) : Answers (exec i s) := by
  have hf := FilterSound.of_inv (inv_launch hinv (encode i))
  have haddr := addressable_of_legalConfig (g := (launch (encode i) s).geom Config.hash)
  have hpoint (hpre : pointError (launch (encode i) s) = none) := haddr (legalConfig_of_pointError hf hpre)
  have hrange (hpre : rangeError (launch (encode i) s) = none) := haddr (legalConfig_of_rangeError hf hpre)
  cases i with
  | config => exact ⟨_, rfl⟩
  | add =>
    cases hpre : pointError (launch (encode .add) s) with
    | some e => exact ⟨_, runAdd_of_error hpre⟩
    | none => exact ⟨_, runAdd_of_ok hpre (hpoint hpre)⟩
  | contains =>
    cases hpre : pointError (launch (encode .contains) s) with
    | some e => exact ⟨_, runContains_of_error hpre⟩
    | none => exact ⟨_, runContains_of_ok hpre (hpoint hpre)⟩
  | overlaps =>
    cases hpre : rangeError (launch (encode .overlaps) s) with
    | some e => exact ⟨_, runOverlaps_of_error hpre⟩
    | none => exact ⟨_, runOverlaps_of_ok hpre (hrange hpre)⟩

/-- Settles O20: the cycles answer because the phase steps do, and the commands because their cells exist. -/
theorem stepNeverStops : Obligations.StepNeverStops := by
  intro s hinv hfront
  have hinputs (l : List HostOp) : (s.setInputs l).inv = true := hinv
  have hcycle (l : List HostOp) (acc : Option Access) : Answers (clockCycle acc (s.setInputs l)) :=
    clockCycle_answers (s := s.setInputs l) hinv hfront acc
  unfold step
  split
  · exact clockCycle_answers hinv hfront none
  · exact hcycle _ _
  · exact ⟨_, rfl⟩
  · split_ifs
    · exact clockCycle_answers hinv hfront _
    · exact hcycle _ _
  · split_ifs
    · exact hcycle _ _
    · split
      · exact (exec_answers (hinputs _) _).mapNext pollStatus
      · exact ⟨_, rfl⟩

end Sys2Proof.Machine
end

section
/-! The commands step by step (42_point.md rule R303, 40_config.md rule R211, 70_reset_and_hazards.md rule R520, logs 10 and
16): the state before each layer of ADD and CONTAINS and before each cell of CONFIG, and the steps between them. -/

namespace Sys2Proof.Machine

/-! ### Runs of phase steps -/

section Runs
variable {h : HashFn}

theorem engineSteps_add {n : Nat} {s t : State} (hn : engineSteps h n s = .next t) (m : Nat) :
    engineSteps h (n + m) s = engineSteps h m t := by
  induction n generalizing s with
  | zero => rw [Nat.zero_add, ← Host.Outcome.next.inj hn]
  | succ n ih =>
    rw [Nat.add_right_comm]
    cases hstep : engineStepWith h s with
    | next u =>
      rw [engineSteps_succ hstep] at hn ⊢
      exact ih hn
    | fault r => simp [engineSteps, hstep] at hn
    | refused r => simp [engineSteps, hstep] at hn

theorem engineSteps_one {s t : State} (hstep : engineStepWith h s = .next t) : engineSteps h 1 s = .next t :=
  engineSteps_succ hstep 0

/-- One step more at the end. -/
theorem engineSteps_succ_right {n : Nat} {s t u : State} (hn : engineSteps h n s = .next t)
    (hstep : engineStepWith h t = .next u) : engineSteps h (n + 1) s = .next u :=
  (engineSteps_add hn 1).trans (engineSteps_one hstep)

end Runs

/-! ### ADD and CONTAINS, layer by layer -/

/-- ADD or CONTAINS before layer i, with the cells `m`. -/
def pointAt (s : State) (m : Memory) (i : Nat) : State :=
  (s.setCells m).setSeq { s.seq with phase := .ptLayer, lidx := BitVec.ofNat 7 i, fresh := false }

/-- The cells after ADD has visited the layers below i. -/
def Geom.addKeyTo (g : Geom) (m : Memory) (k i : Nat) : Memory := (List.range i).foldl (fun m i => g.setBit m i k) m

theorem addKeyTo_succ (g : Geom) (m : Memory) (k i : Nat) :
    g.addKeyTo m k (i + 1) = g.setBit (g.addKeyTo m k i) i k := by
  simp [Geom.addKeyTo, List.range_succ]

section Point
variable {h : HashFn} {s : State}

theorem engineStepWith_startPoint (hfresh : s.seq.fresh = true)
    (hop : s.latch.curOp = encode .add ∨ s.latch.curOp = encode .contains) (hpre : pointError s = none) :
    engineStepWith h s = .next (pointAt s s.cells 0) := by
  rw [engineStepWith_of_fresh hfresh]
  rcases hop with hop | hop <;> simp only [startStep, hop, decode_encode, startPoint, hpre] <;> rfl

variable (haddr : (s.geom h).addressable = true) {m : Memory} {i : Nat} (hi : i < (s.geom h).layers)

include hi in
theorem pointAt_lidx : (pointAt s m i).seq.lidx.toNat = i := by
  have hbound : (s.geom h).layers < 128 := s.act.l.isLt
  exact (BitVec.toNat_ofNat _ _).trans (Nat.mod_eq_of_lt (by omega))

include hi in
/-- After the last layer the command completes; before it, the next layer comes. -/
theorem nextLayer_pointAt (r : Bool) :
    nextLayer (s.geom h) r (pointAt s m i)
      = if i + 1 = (s.geom h).layers then complete r (pointAt s m i) else pointAt s m (i + 1) := by
  have hlidx : BitVec.ofNat 7 i + 1 = BitVec.ofNat 7 (i + 1) := (BitVec.ofNat_add _ _).symm
  unfold nextLayer
  rw [pointAt_lidx (h := h) hi]
  refine if_congr Iff.rfl rfl ?_
  simp only [pointAt, setSeq_seq, hlidx]
  rfl

include haddr hi

theorem engineStepWith_pointAt :
    engineStepWith h (pointAt s m i)
      = if s.latch.curOp = encode .add then .next (addLayer (s.geom h) (pointAt s m i))
        else .next (containsLayer (s.geom h) (pointAt s m i)) := by
  have hready : (s.geom h).layerReady (pointAt s m i).seq.lidx.toNat = true := by
    simp [Geom.layerReady, haddr, pointAt_lidx (h := h) (m := m) hi, hi]
  rw [engineStepWith_of_not_fresh rfl]
  exact if_pos hready

/-- A layer of ADD. -/
theorem engineStepWith_pointAt_add (hop : s.latch.curOp = encode .add) :
    engineStepWith h (pointAt s m i) = .next
      (nextLayer (s.geom h) false (pointAt s ((s.geom h).setBit m i (pointKey s)) i)) := by
  rw [engineStepWith_pointAt haddr hi, if_pos hop, addLayer, pointAt_lidx (h := h) hi]
  rfl

/-- A layer of CONTAINS. -/
theorem engineStepWith_pointAt_contains (hop : s.latch.curOp = encode .contains) :
    engineStepWith h (pointAt s m i) = .next
      (if (s.geom h).bitProbe m i (pointKey s) then nextLayer (s.geom h) true (pointAt s m i)
        else complete false (pointAt s m i)) := by
  have hadd : s.latch.curOp ≠ encode .add := by
    rw [hop]
    decide
  rw [engineStepWith_pointAt haddr hi, if_neg hadd, containsLayer, pointAt_lidx (h := h) hi]
  rfl

end Point

/-- ADD after its first step and the layers below i. -/
theorem engineSteps_add_command {h : HashFn} {s : State} (hfresh : s.seq.fresh = true)
    (hop : s.latch.curOp = encode .add) (hpre : pointError s = none) (haddr : (s.geom h).addressable = true) {i : Nat}
    (hi : i < (s.geom h).layers) :
    engineSteps h (i + 1) s = .next (pointAt s ((s.geom h).addKeyTo s.cells (pointKey s) i) i) := by
  induction i with
  | zero => exact engineSteps_one (engineStepWith_startPoint hfresh (.inl hop) hpre)
  | succ i ih =>
    refine engineSteps_succ_right (ih (Nat.lt_of_succ_lt hi)) ?_
    rw [engineStepWith_pointAt_add haddr (Nat.lt_of_succ_lt hi) hop, nextLayer_pointAt (Nat.lt_of_succ_lt hi),
      if_neg (by omega), addKeyTo_succ]

/-- Settles O50: one step per layer, the last of which completes. -/
theorem addTakesOneStepPerLayer : Obligations.AddTakesOneStepPerLayer := by
  intro h s hfresh hbusy hop hpre haddr hlayers
  refine ⟨fun n hn => ?_, ?_⟩
  · cases n with
    | zero => exact ⟨s, rfl, hbusy⟩
    | succ i => exact ⟨_, engineSteps_add_command hfresh hop hpre haddr hn, hbusy⟩
  · obtain ⟨i, hi⟩ := Nat.exists_eq_add_of_le' hlayers
    have hlast : i < (s.geom h).layers := by omega
    have hrun := engineSteps_succ_right (engineSteps_add_command hfresh hop hpre haddr hlast)
      (engineStepWith_pointAt_add haddr hlast hop)
    rw [nextLayer_pointAt hlast, if_pos hi.symm, ← addKeyTo_succ, ← hi] at hrun
    exact ⟨_, rfl, rfl, hrun⟩

/-- CONTAINS from layer i on: it answers whether the bits of these layers are set. -/
theorem engineSteps_contains_from {h : HashFn} {s : State} (hop : s.latch.curOp = encode .contains)
    (haddr : (s.geom h).addressable = true) {i d : Nat} (hi : i + (d + 1) = (s.geom h).layers) {r : Bool}
    (hr : r = true ↔ ∀ j, i ≤ j → j < (s.geom h).layers → (s.geom h).bitProbe s.cells j (pointKey s) = true) :
    ∃ n q, n ≤ d + 1 ∧ q.phase = .idle ∧ q.fresh = false
      ∧ engineSteps h n (pointAt s s.cells i) = .next ((complete r s).setSeq q) := by
  have hlt : i < (s.geom h).layers := by omega
  have hstep := engineStepWith_pointAt_contains (m := s.cells) haddr hlt hop
  by_cases hbit : (s.geom h).bitProbe s.cells i (pointKey s) = true
  · rw [if_pos hbit, nextLayer_pointAt hlt] at hstep
    cases d with
    | zero =>
      obtain rfl : r = true := hr.mpr fun j hij hj => by
        obtain rfl : j = i := by omega
        exact hbit
      rw [if_pos hi] at hstep
      exact ⟨1, _, le_rfl, rfl, rfl, engineSteps_one hstep⟩
    | succ d =>
      rw [if_neg (by omega)] at hstep
      have hr' : r = true ↔
          ∀ j, i + 1 ≤ j → j < (s.geom h).layers → (s.geom h).bitProbe s.cells j (pointKey s) = true := by
        refine hr.trans ⟨fun hall j hij hj => hall j (by omega) hj, fun hall j hij hj => ?_⟩
        rcases Nat.eq_or_lt_of_le hij with rfl | hij
        · exact hbit
        · exact hall j hij hj
      obtain ⟨n, q, hn, hphase, hq, hrun⟩ := engineSteps_contains_from hop haddr (i := i + 1) (d := d) (by omega) hr'
      exact ⟨n + 1, q, Nat.succ_le_succ hn, hphase, hq, (engineSteps_succ hstep n).trans hrun⟩
  · obtain rfl : r = false := by
      by_contra hne
      exact hbit (hr.mp (Bool.not_eq_false _ ▸ hne) i le_rfl hlt)
    rw [if_neg hbit] at hstep
    exact ⟨1, _, by omega, rfl, rfl, engineSteps_one hstep⟩

/-- Settles O51: after the first step CONTAINS visits the layers from 0 on. -/
theorem containsTakesAtMostOneStepPerLayer : Obligations.ContainsTakesAtMostOneStepPerLayer := by
  intro h s hfresh hop hpre haddr hlayers
  have hr : (s.geom h).containsKey s.cells (pointKey s) = true ↔
      ∀ j, 0 ≤ j → j < (s.geom h).layers → (s.geom h).bitProbe s.cells j (pointKey s) = true :=
    containsKey_iff.trans (forall_congr' fun j => (imp_iff_right (Nat.zero_le j)).symm)
  obtain ⟨n, q, hn, hphase, hq, hrun⟩ :=
    engineSteps_contains_from hop haddr (i := 0) (d := (s.geom h).layers - 1) (by omega) hr
  exact ⟨n + 1, q, by omega, hphase, hq,
    (engineSteps_succ (engineStepWith_startPoint hfresh (.inr hop) hpre) n).trans hrun⟩

/-! ### CONFIG, cell by cell -/

/-- CONFIG before cell z: the cells below are cleared. -/
def clearingAt (s : State) (z : Nat) : State :=
  (s.setCells (clearCells z s.cells)).setSeq { s.seq with phase := .cfgZero, zidx := z, fresh := false }

/-- Valid parameters ask for a cell at least (40_config.md rule R202). -/
theorem one_le_latchedCells {s : State} (hv : validateLatch s = 0) : 1 ≤ latchedCells s := by
  refine one_le_cellCount fun hsize => ?_
  have hbit : (validateLatch s).getLsbD 0 = true := by
    unfold validateLatch
    rw [validate_getLsbD]
    simp [hsize]
  simp [hv] at hbit

section Config
variable {h : HashFn} {s : State}

theorem engineStepWith_startConfig (hfresh : s.seq.fresh = true) (hop : s.latch.curOp = encode .config)
    (hv : validateLatch s = 0) : engineStepWith h s = .next (clearingAt s 0) := by
  rw [engineStepWith_of_fresh hfresh, startStep, hop, decode_encode]
  simp only [startConfig, hv]
  rfl

/-- A clearing step: the next cell, or the end of the command. -/
theorem engineStepWith_clearingAt {z : Nat} (hz : z < latchedCells s) :
    engineStepWith h (clearingAt s z) = .next
      (if z + 1 < latchedCells s then clearingAt s (z + 1)
        else complete false (commit ((clearingAt s z).setCells (clearCells (z + 1) s.cells)))) := by
  have hcells : latchedCells (clearingAt s z) = latchedCells s := rfl
  have hzidx : (clearingAt s z).seq.zidx = z := rfl
  rw [engineStepWith_of_not_fresh rfl]
  refine congrArg Host.Outcome.next ?_
  have hstep := cfgZeroStep_cases (s := clearingAt s z) hz
  have hwrite : Memory.write (clearingAt s z).cells (clearingAt s z).seq.zidx 0 = clearCells (z + 1) s.cells :=
    (clearCells_succ z s.cells).symm
  rw [hwrite, hcells, hzidx] at hstep
  obtain ⟨hnext, hstep⟩ | ⟨hlast, hstep⟩ := hstep <;> rw [hstep]
  · rw [if_pos hnext]
    rfl
  · rw [if_neg (hlast.symm ▸ lt_irrefl _)]

/-- CONFIG after its first step and the cells below z. -/
theorem engineSteps_config_command (hfresh : s.seq.fresh = true) (hop : s.latch.curOp = encode .config)
    (hv : validateLatch s = 0) {z : Nat} (hz : z < latchedCells s) :
    engineSteps h (z + 1) s = .next (clearingAt s z) := by
  induction z with
  | zero => exact engineSteps_one (engineStepWith_startConfig hfresh hop hv)
  | succ z ih =>
    refine engineSteps_succ_right (ih (Nat.lt_of_succ_lt hz)) ?_
    rw [engineStepWith_clearingAt (Nat.lt_of_succ_lt hz), if_pos hz]

end Config

/-- Settles O52: one step per cell, the last of which commits and completes. -/
theorem configTakesOneStepPerCell : Obligations.ConfigTakesOneStepPerCell := by
  intro h s hfresh hbusy hop hv
  refine ⟨fun n hn => ?_, ?_⟩
  · cases n with
    | zero => exact ⟨s, rfl, hbusy⟩
    | succ z => exact ⟨_, engineSteps_config_command hfresh hop hv hn, hbusy⟩
  · obtain ⟨z, hz⟩ := Nat.exists_eq_add_of_le' (one_le_latchedCells hv)
    have hlast : z < latchedCells s := by omega
    have hrun := engineSteps_succ_right (engineSteps_config_command (h := h) hfresh hop hv hlast)
      (engineStepWith_clearingAt hlast)
    rw [if_neg (by omega), ← hz] at hrun
    exact ⟨_, rfl, rfl, hrun⟩

end Sys2Proof.Machine
end

section
/-! Running to the end (20_memory.md rules R118, R120, 70_reset_and_hazards.md rule R520): phase steps end in what the
command means, from every sound state they end, and clock cycles follow them whatever the latencies. -/

namespace Sys2Proof.Machine

/-! ### Phase steps refine the commands -/

/-- Phase steps from `l` end in `u` but for the sequencing registers. -/
def EndsIn (h : HashFn) (l u : State) : Prop :=
  ∃ n q, q.phase = .idle ∧ q.fresh = false ∧ engineSteps h n l = .next (u.setSeq q)

theorem startStep_point_of_error {h : HashFn} {l : State}
    (hop : l.latch.curOp = encode .add ∨ l.latch.curOp = encode .contains) {e : ErrorCode}
    (hpre : pointError l = some e) : startStep h l = raiseError e 0 l := by
  rcases hop with hop | hop <;> simp only [startStep, hop, decode_encode, startPoint, hpre]

section Launched
variable {h : HashFn} {l : State} (hfresh : l.seq.fresh = true)
include hfresh

/-- An error is raised in the first step (60_exceptions.md rule R456). -/
theorem endsIn_of_first_step_raises {e : ErrorCode} {det : Word} (hstart : startStep h l = raiseError e det l) :
    EndsIn h l (raiseError e det l) :=
  ⟨1, (raiseError e det l).seq, rfl, rfl, engineSteps_one ((engineStepWith_of_fresh hfresh h).trans (hstart ▸ rfl))⟩

theorem runConfig_endsIn (hb : l.status.busy = true) (hop : l.latch.curOp = encode .config) :
    EndsIn h l (runConfig l) := by
  obtain ⟨hv, hrun⟩ | ⟨hv, hrun⟩ := runConfig_cases l <;> rw [hrun]
  · refine endsIn_of_first_step_raises hfresh ?_
    rw [startStep, hop, decode_encode]
    exact if_pos hv
  · obtain ⟨-, q, hphase, hq, hsteps⟩ := configTakesOneStepPerCell h l hfresh hb hop hv
    exact ⟨_, q, hphase, hq, hsteps⟩

variable (hf : FilterSound l)
include hf

theorem runAdd_endsIn (hb : l.status.busy = true) (hop : l.latch.curOp = encode .add) {u : State}
    (hu : runAdd h l = .next u) : EndsIn h l u := by
  obtain ⟨e, hpre, rfl⟩ | ⟨hpre, haddr, rfl⟩ := runAdd_next hu
  · exact endsIn_of_first_step_raises hfresh (startStep_point_of_error (.inl hop) hpre)
  · have hlayers := one_le_layers (g := l.geom h) (legalConfig_of_pointError hf hpre)
    obtain ⟨-, q, hphase, hq, hsteps⟩ := addTakesOneStepPerLayer h l hfresh hb hop hpre haddr hlayers
    exact ⟨_, q, hphase, hq, hsteps⟩

theorem runContains_endsIn (hop : l.latch.curOp = encode .contains) {u : State} (hu : runContains h l = .next u) :
    EndsIn h l u := by
  obtain ⟨e, hpre, rfl⟩ | ⟨hpre, haddr, rfl⟩ := runContains_next hu
  · exact endsIn_of_first_step_raises hfresh (startStep_point_of_error (.inr hop) hpre)
  · have hlayers := one_le_layers (g := l.geom h) (legalConfig_of_pointError hf hpre)
    obtain ⟨n, q, -, hphase, hq, hsteps⟩ := containsTakesAtMostOneStepPerLayer h l hfresh hop hpre haddr hlayers
    exact ⟨n, q, hphase, hq, hsteps⟩

theorem runOverlaps_endsIn (hop : l.latch.curOp = encode .overlaps) {u : State} (hu : runOverlaps h l = .next u) :
    EndsIn h l u := by
  obtain ⟨e, hpre, rfl⟩ | ⟨hpre, -, rfl⟩ := runOverlaps_next hu
  · refine endsIn_of_first_step_raises hfresh ?_
    simp only [startStep, hop, decode_encode, startRange, hpre]
  · exact sequencerAnswersTheReference h l (legalConfig_of_rangeError hf hpre) hfresh hop hpre

end Launched

/-- Every command from a sound state: its phase steps end in what `exec` answers. -/
theorem exec_endsIn {s u : State} {i : Instr} (hinv : s.inv = true) (hu : exec i s = .next u) :
    EndsIn Config.hash (launch (encode i) s) u := by
  have hf := FilterSound.of_inv (inv_launch hinv (encode i))
  cases i with
  | config =>
    obtain rfl := Host.Outcome.next.inj hu
    exact runConfig_endsIn rfl rfl rfl
  | add => exact runAdd_endsIn rfl hf rfl rfl hu
  | contains => exact runContains_endsIn rfl hf rfl hu
  | overlaps => exact runOverlaps_endsIn rfl hf rfl hu

/-- Settles O54: each command's step-by-step run, after its launch from a sound state. -/
theorem phaseStepsRefineEveryCommand : Obligations.PhaseStepsRefineEveryCommand := by
  intro s i hinv _
  obtain ⟨u, hu⟩ := exec_answers hinv i
  obtain ⟨n, q, hphase, hq, hsteps⟩ := exec_endsIn hinv hu
  exact ⟨n, q, hphase, hq, by rw [hsteps, hu, mapNext_next]⟩

/-! ### Phase steps end -/

/-- Phase steps from `s` come to BUSY = 0. -/
def Halts (h : HashFn) (s : State) : Prop := ∃ n t, engineSteps h n s = .next t ∧ t.status.busy = false

section Halting
variable {h : HashFn} {s : State}

theorem halts_of_not_busy (hb : s.status.busy = false) : Halts h s := ⟨0, s, rfl, hb⟩

theorem halts_of_step {t : State} (hstep : engineStepWith h s = .next t) (ht : Halts h t) : Halts h s := by
  obtain ⟨n, u, hn, hb⟩ := ht
  exact ⟨n + 1, u, (engineSteps_succ hstep n).trans hn, hb⟩

/-- Every clearing step clears one of the finitely many cells that are left. -/
theorem halts_cfgZero (hinv : s.inv = true) (hfresh : s.seq.fresh = false) (hphase : s.seq.phase = .cfgZero) :
    Halts h s := by
  induction hleft : latchedCells s - s.seq.zidx generalizing s with
  | zero =>
    obtain ⟨-, -, hz⟩ := (runningPhaseOk_cfgZero hphase).mp (runningPhaseOk_of_inv hinv hfresh)
    omega
  | succ n ih =>
    obtain ⟨-, -, hz⟩ := (runningPhaseOk_cfgZero hphase).mp (runningPhaseOk_of_inv hinv hfresh)
    have hstep : engineStepWith h s = .next (cfgZeroStep s) := by
      rw [engineStepWith_of_not_fresh hfresh, phaseStep, hphase]
    have hinv' := inv_engineStepWith hinv hstep
    refine halts_of_step hstep ?_
    obtain ⟨-, hnext⟩ | ⟨-, hlast⟩ := cfgZeroStep_cases hz
    · rw [hnext] at hinv' ⊢
      refine ih hinv' hfresh hphase ?_
      show latchedCells s - (s.seq.zidx + 1) = n
      omega
    · rw [hlast]
      exact halts_of_not_busy rfl

/-- The layers that ADD or CONTAINS has not visited. -/
def layersLeft (s : State) : Nat := s.act.l.toNat - s.seq.lidx.toNat

/-- A PT_LAYER step ends the command or leaves fewer layers. -/
theorem ptLayerStep_progress (hb : s.seq.lidx.toNat < (s.geom h).layers) {t : State} (ht : ptLayerStep h s = .next t) :
    t.status.busy = false
      ∨ (t.seq.fresh = s.seq.fresh ∧ t.seq.phase = s.seq.phase ∧ layersLeft t < layersLeft s) := by
  have hnext (r : Bool) (m : Memory) : (nextLayer (s.geom h) r (s.setCells m)).status.busy = false
      ∨ ((nextLayer (s.geom h) r (s.setCells m)).seq.fresh = s.seq.fresh
        ∧ (nextLayer (s.geom h) r (s.setCells m)).seq.phase = s.seq.phase
        ∧ layersLeft (nextLayer (s.geom h) r (s.setCells m)) < layersLeft s) := by
    obtain ⟨-, hstep⟩ | ⟨hne, hstep⟩ := nextLayer_cases (s.geom h) r (s.setCells m) <;> rw [hstep]
    · exact .inl rfl
    · refine .inr ⟨rfl, rfl, ?_⟩
      have hlayers : (s.geom h).layers = s.act.l.toNat := rfl
      have hbound : s.act.l.toNat < 128 := s.act.l.isLt
      show s.act.l.toNat - (s.seq.lidx + 1).toNat < s.act.l.toNat - s.seq.lidx.toNat
      rw [setCells_seq] at hne
      rw [hlayers] at hb hne
      bv_omega
  obtain ⟨-, ⟨-, rfl⟩ | ⟨-, rfl⟩⟩ := ptLayerStep_next ht
  · exact hnext false _
  · obtain hstep | hstep := containsLayer_cases (s.geom h) s <;> rw [hstep]
    · exact hnext true s.cells
    · exact .inl rfl

theorem halts_ptLayer (hinv : s.inv = true) (hfresh : s.seq.fresh = false) (hphase : s.seq.phase = .ptLayer) :
    Halts h s := by
  induction hleft : layersLeft s using Nat.strong_induction_on generalizing s with
  | _ n ih =>
    obtain ⟨-, -, hlidx⟩ := (runningPhaseOk_ptLayer hphase h).mp (runningPhaseOk_of_inv hinv hfresh)
    have hfront : frontierOk s = true := frontierOk_of_not_range (by simp [Phase.isRange, hphase])
    obtain ⟨t, ht⟩ := engineStepWith_answers (h := h) hinv hfront
    refine halts_of_step ht ?_
    have hinv' := inv_engineStepWith hinv ht
    rw [engineStepWith_of_not_fresh hfresh, phaseStep, hphase] at ht
    obtain hb | ⟨hfresh', hphase', hlt⟩ := ptLayerStep_progress hlidx ht
    · exact halts_of_not_busy hb
    · exact ih _ (hleft ▸ hlt) hinv' (hfresh'.trans hfresh) (hphase'.trans hphase) rfl

/-- The sequencer completes, with whatever result (43_range.md rule R400). -/
theorem halts_range (hinv : s.inv = true) (hfront : frontierOk s = true) (hfresh : s.seq.fresh = false)
    (hphase : s.seq.phase.isRange) : Halts h s := by
  obtain ⟨hlegal, hle, hrun⟩ := rangeRunning_of_inv (h := h) hinv hfront hfresh hphase
  obtain ⟨r, hr⟩ : ∃ r : Bool, r = true ↔ ∃ k, (queryLo s ≤ k ∧ k ≤ queryHi s)
      ∧ (s.geom h).openKey s.cells (queryLo s) (queryHi s) s.seq k :=
    (Classical.em _).elim (fun hopen => ⟨true, iff_of_true rfl hopen⟩) (fun hopen => ⟨false, iff_of_false nofun hopen⟩)
  obtain ⟨n, q, -, -, hn⟩ := rangeRunning_completes hlegal hle hrun r hr
  exact ⟨n, _, hn, rfl⟩

theorem halts_of_not_fresh (hinv : s.inv = true) (hfront : frontierOk s = true) (hfresh : s.seq.fresh = false) :
    Halts h s := by
  cases hphase : s.seq.phase with
  | idle =>
    refine halts_of_not_busy ?_
    by_contra hb
    exact (busy_iff_of_inv hinv).mp (Bool.not_eq_false _ ▸ hb) hphase
  | cfgZero => exact halts_cfgZero hinv hfresh hphase
  | ptLayer => exact halts_ptLayer hinv hfresh hphase
  | rqSeg => exact halts_range hinv hfront hfresh (.inr (.inl hphase))
  | rqItem => exact halts_range hinv hfront hfresh (.inl hphase)
  | rqSwap => exact halts_range hinv hfront hfresh (.inr (.inr hphase))

/-- The first step makes the command no longer fresh (log 10). -/
theorem startStep_fresh (h : HashFn) (s : State) : (startStep h s).seq.fresh = false := by
  unfold startStep startConfig startPoint startRange
  repeat' split
  all_goals rfl

theorem halts_of_inv (hinv : s.inv = true) (hfront : frontierOk s = true) : Halts h s := by
  cases hfresh : s.seq.fresh with
  | true =>
    have hstep := engineStepWith_of_fresh hfresh h
    exact halts_of_step hstep (halts_of_not_fresh (inv_engineStepWith hinv hstep)
      (frontierOk_engineStepWith hinv hfront hstep) (startStep_fresh h s))
  | false => exact halts_of_not_fresh hinv hfront hfresh

end Halting

/-! ### Clock cycles follow the phase steps -/

/-- The state with other latency counters (log 7). -/
def State.withLatency (s : State) (stall tick : Nat) : State := { s with stall := stall, tick := tick }

theorem engineBlind_withLatency (a b : Nat) : EngineBlind fun s => s.withLatency a b := by
  constructor <;> intros <;> rfl

theorem EngineBlind.engineSteps_comm {f : State → State} (hf : EngineBlind f) (h : HashFn) (n : Nat) (s : State) :
    engineSteps h n (f s) = mapNext f (engineSteps h n s) := by
  induction n generalizing s with
  | zero => rfl
  | succ n ih =>
    unfold engineSteps
    rw [hf.engineStepWith_comm]
    cases engineStepWith h s with
    | next t => exact ih t
    | fault r => rfl
    | refused r => rfl

theorem core_run_succ {M : Host.Core} {s t : M.State} (hstep : M.step s = .next t) (n : Nat) :
    M.run (n + 1) s = M.run n t := by
  rw [Host.Core.run, hstep]

theorem run_succ {s t : State} (hstep : step s = .next t) (n : Nat) :
    Host.Core.run core (n + 1) s = Host.Core.run core n t := core_run_succ (M := core) hstep n

/-- With no host operation left, a cycle in which a command runs is the engine's (log 8). -/
theorem step_of_running {s : State} (hin : s.inputs = []) (hb : s.status.busy = true) : step s = engineCycle s := by
  have hcycle : step s = clockCycle none s := by simp [step, hin]
  exact hcycle.trans (clockCycle_of_busy hb none)

/-- Clock cycles of an idle host come to the next phase step, whatever the latency. -/
theorem exists_run_engineStep {s t : State} (hin : s.inputs = []) (hb : s.status.busy = true)
    (ht : engineStep s = .next t) :
    ∃ m a b, ∀ k, Host.Core.run core (m + k) s = Host.Core.run core k (t.withLatency a b) := by
  induction hstall : s.stall generalizing s t with
  | zero =>
    have hstep : step s = .next t.drawLatency := by
      rw [step_of_running hin hb, engineCycle, if_pos hstall, ht, mapNext_next]
    exact ⟨1, _, _, fun k => (congrArg (Host.Core.run core · s) (Nat.add_comm 1 k)).trans (run_succ hstep k)⟩
  | succ n ih =>
    have hstep : step s = .next (s.withLatency n s.tick) := by
      rw [step_of_running hin hb, engineCycle, if_neg (by omega), hstall]
      rfl
    have ht' : engineStep (s.withLatency n s.tick) = .next (t.withLatency n s.tick) :=
      ((engineBlind_withLatency n s.tick).engineStepWith_comm Config.hash s).trans (by rw [← engineStep, ht, mapNext_next])
    obtain ⟨m, a, b, hm⟩ := ih (s := s.withLatency n s.tick) hin hb ht' rfl
    refine ⟨m + 1, a, b, fun k => ?_⟩
    rw [Nat.add_right_comm, run_succ hstep]
    exact hm k

theorem engineStep_of_idle {h : HashFn} {s : State} (hidle : s.seq.phase = .idle) (hfresh : s.seq.fresh = false) :
    engineStepWith h s = .next s := by
  rw [engineStepWith_of_not_fresh hfresh, phaseStep, hidle]

/-- Where phase steps end, clock cycles of an idle host end in the same state, but for the latency counters. -/
theorem exists_run_of_engineSteps {n : Nat} {s t : State} (hinv : s.inv = true) (hin : s.inputs = [])
    (hsteps : engineSteps Config.hash n s = .next t) (ht : t.status.busy = false) :
    ∃ m a b, Host.Core.run core m s = .next (t.withLatency a b) := by
  induction n generalizing s t with
  | zero =>
    obtain rfl := Host.Outcome.next.inj hsteps
    exact ⟨0, s.stall, s.tick, rfl⟩
  | succ n ih =>
    cases hb : s.status.busy with
    | false =>
      obtain ⟨hidle, hfresh⟩ := idle_of_not_busy hinv hb
      exact ih hinv hin ((engineSteps_succ (engineStep_of_idle hidle hfresh) n).symm.trans hsteps) ht
    | true =>
      cases hstep : engineStepWith Config.hash s with
      | fault r => simp [engineSteps, hstep] at hsteps
      | refused r => simp [engineSteps, hstep] at hsteps
      | next u =>
        obtain ⟨m₁, a, b, hfirst⟩ := exists_run_engineStep hin hb hstep
        obtain ⟨-, -, -, -, -, -, -, -, hin', -⟩ := (engineKeeps_step hstep).host
        have hinv' : u.inv = true := inv_engineStepWith hinv hstep
        have hsteps' : engineSteps Config.hash n (u.withLatency a b) = .next (t.withLatency a b) := by
          rw [engineSteps_succ hstep] at hsteps
          exact ((engineBlind_withLatency a b).engineSteps_comm Config.hash n u).trans (by rw [hsteps, mapNext_next])
        obtain ⟨m₂, a', b', hrest⟩ := ih (s := u.withLatency a b) hinv' (hin'.trans hin) hsteps' ht
        exact ⟨m₁ + m₂, a', b', (hfirst m₂).trans hrest⟩

/-- Settles O55: the phase steps of a sound state end, and the clock cycles follow them. -/
theorem everyRunningCommandCompletes : Obligations.EveryRunningCommandCompletes := by
  intro s hinv hfront hin
  obtain ⟨n, t, hsteps, hb⟩ := halts_of_inv (h := Config.hash) hinv hfront
  obtain ⟨m, a, b, hrun⟩ := exists_run_of_engineSteps hinv hin hsteps hb
  exact ⟨m, t.withLatency a b, hrun, hb⟩

/-- The launch of an accepted CMD write (60_exceptions.md rules R452, R453). -/
theorem step_of_cmd_write {s : State} {v : Word} {rest : List HostOp}
    (hin : s.inputs = .cycle false (some (.wr cmdOffset v)) :: rest) (hb : s.status.busy = false) :
    step s = .next ((launch v (s.setInputs rest)).withLatency (Config.stallCycles s.tick) (s.tick + 1)) := by
  have hcycle : step s = clockCycle (some (.wr cmdOffset v)) (s.setInputs rest) := by simp [step, hin]
  rw [hcycle]
  exact (cmdWriteIsAcceptedOrDropped (s.setInputs rest) v).1 hb

/-- Settles O56: the write launches the command, whose phase steps end in what `exec` answers. -/
theorem clockedRunReachesTheCommandsResult : Obligations.ClockedRunReachesTheCommandsResult := by
  intro s i hinv hb hin
  have hinv₀ : (s.setInputs []).inv = true := hinv
  obtain ⟨u, hu⟩ := exec_answers hinv₀ i
  obtain ⟨-, hdone, -⟩ := everyCommandEndsDone i _ u hu
  obtain ⟨n, q, -, -, hsteps⟩ := exec_endsIn hinv₀ hu
  have hlaunch := step_of_cmd_write hin hb
  have hinv' := inv_launch hinv₀ (encode i)
  have hin' : (launch (encode i) (s.setInputs [])).inputs = [] := rfl
  generalize launch (encode i) (s.setInputs []) = l at hsteps hlaunch hinv' hin'
  have hsteps' := (engineBlind_withLatency (Config.stallCycles s.tick) (s.tick + 1)).engineSteps_comm Config.hash n l
  rw [hsteps, mapNext_next] at hsteps'
  obtain ⟨m, a, b, hrun⟩ := exists_run_of_engineSteps
    (s := l.withLatency (Config.stallCycles s.tick) (s.tick + 1)) hinv' hin' hsteps' hdone
  exact ⟨m + 1, _, u, (run_succ hlaunch m).trans hrun, hdone, hu, rfl⟩

end Sys2Proof.Machine
end
